-- ==== Sys2Proof/Word.lean ====
section
/-! DEFINITION. The plain types that the part's fields are written in: bytes of a frame, the fixed index ranges of the manual (section 6.4 of 00_scope), and the 16-bit numbers that wrap. Times and counts are natural numbers with the range their rule gives; signed quantities are integers (R9: exact arithmetic, then held in range). -/

namespace Sys2Proof

/-- One byte of a request frame or of an outbound frame (R176). -/
abbrev Byte := BitVec 8

/-- A station slot, 0 to 63. -/
abbrev Slot := Fin 64

/-- A zone, 0 to 7. -/
abbrev ZoneId := Fin 8

/-- A delivery group, 0 to 3. -/
abbrev GroupId := Fin 4

/-- A client port, CP0 to CP3. -/
abbrev PortId := Fin 4

/-- A block sequence number: 16 bits, compared modulo 65536 (R11). -/
abbrev SeqNo := BitVec 16

/-- A model generation: 16 bits, wrapping (R29). -/
abbrev Gen := BitVec 16

/-- A subset of the delivery groups 0 to 3, bit g standing for group g (R176). -/
abbrev GroupSet := BitVec 4

end Sys2Proof
end

