-- ==== Sys2Proof/Config.lean ====
section
/-! DEFINITION. What the part fixes (section 12.8 and the ranges of chapter 1) and the FREE VALUES: codes of reply fields that no rule of the manual states. Each free value is a constant without a body, so nothing can be proved of it beyond its type (log 13). -/

namespace Sys2Proof.Config

/-- The largest time, 2^56 - 1 microseconds (R1, R9). -/
def timeMax : Nat := 72057594037927935

/-- The largest epoch number (R10, R88). -/
def epochMax : Nat := 4294967295

/-- The largest uncertainty, at which it saturates (Table 2-1). -/
def uncertaintyMax : Nat := 4294967295

/-- Epoch records in the ring (R80). -/
def ringRecords : Nat := 48

/-- Records of the Block Pool (R55). -/
def poolRecords : Nat := 8192

/-- Outbound places of a port (R158). -/
def outboundPlaces : Nat := 12

/-- Items of the staged shape set (R149). -/
def stagedItems : Nat := 32

/-- Why a shape item is invalid (R150). -/
inductive ShapeReason
  | slotInUse | codeInUse | slotVacant
deriving DecidableEq, Repr

/-- FREE VALUE: which of the two values of its byte a DUPLICATE reply gives for a match among the records in use; a match in the history is the other one (R59, R176). -/
opaque duplicateInUse : Bool

/-- FREE VALUE: which of the two values of its byte stands for a ring that is ACTIVE in the reply to a refused START_RING; STOPPED is the other one (R81, R176). -/
opaque ringActive : Bool

/-- FREE VALUE: the code of the reason in a SHAPE_INVALID reply (R150 names the reason, no table codes it). -/
opaque shapeReason : ShapeReason → Byte

/-- FREE VALUE: the mark in the place of the re-time queue position for a station that is running (R32, R115). -/
opaque retimeRunning : Byte

/-- FREE VALUE: the mark in the place of the re-time queue position for a station that is not queued (R32, R115). -/
opaque retimeNotQueued : Byte

/-- FREE VALUE: whether the cause masks of a READ_CAUSES reply are packed as the gap marks are (first member in the highest bit) or as the block flags are (R176 names both packings for marks or flags). -/
opaque causeMasksAsMarks : Bool

/-- FREE VALUE: the value that an absent zone deadline takes when a SET_ZONE that makes its zone NO_WAIT makes it expired (R152 states no value; the formula of R103 has none for NO_WAIT), as a function of the record's epoch, the zone and now. -/
opaque noWaitExpiry : Nat → Nat → Nat → Nat

end Sys2Proof.Config
end

