-- ==== Sys2Proof/Syntax.lean ====
section
/-! DEFINITION. The commands: one constructor of Instr for each row of spec/opcode_table.json, with the operands that the row's rule gives it. A request's body fields have the widths of Table 12-3 (12.5), so every value a frame can carry is a value of the type; range checks are the owning block's, not the type's. -/

namespace Sys2Proof

/-- The fault that a request frame which is no request has (R161). -/
inductive FrameFault
  | truncated | corrupt
deriving DecidableEq, Repr

/-- What every request command carries beside its body: the port, the tag of its header, and how many bytes the transaction clocked, which decides whether the frame sent in it was clocked out entire (R159). -/
structure Xfer where
  port : PortId
  tag : Byte
  clocked : Nat
deriving DecidableEq, Repr

/-- The body of a SUBMIT_BLOCK (R59, Table 12-3). -/
structure BlockReq where
  slot : Byte
  seq : SeqNo
  start : BitVec 56
  samples : BitVec 16
  rate : Byte
  channels : Byte
  handle : BitVec 32
deriving DecidableEq, Repr

/-- The body of a SUBMIT_REPORT (R17, Table 12-3): a station time Ts, a network time Tn and the lock flag byte (0 is off, any other value is on, R176). -/
structure ReportReq where
  slot : Byte
  ts : BitVec 56
  tn : BitVec 56
  lock : Byte
deriving DecidableEq, Repr

/-- The body of a STAGE_SHAPE as its item type byte selects it (R149, Table 12-3), before any range check. -/
inductive RawItem
  | addStation (slot : Byte) (code : BitVec 16) (zone depth action : Byte)
  | removeStation (slot : Byte)
  | setStation (slot zone depth action : Byte)
  | setZone (zone mode budget extension : Byte) (cap : BitVec 16) (hold : Byte)
  | unknown (itemType : Byte)
deriving DecidableEq, Repr

/-- The body of a SET_RIGHTS (R156, Table 12-3). -/
structure RightsReq where
  port : Byte
  rights : Byte
  subscriptions : Byte
  credit : Byte
  framePolicy : Byte
  violationPolicy : Byte
deriving DecidableEq, Repr

/-- A request that waits in a port's pending queue for the service path (Table 10-1). -/
inductive ServiceReq
  | submitBlock (b : BlockReq)
  | submitReport (r : ReportReq)
  | zoneFlushed (zone : Byte) (t : BitVec 56)
  | attach (group : Byte)
  | detach (group : Byte)
  | fetchEpoch (group : Byte)
  | fetchPage (group : Byte) (epoch : BitVec 32) (page : BitVec 16)
  | ackEpoch (group : Byte) (epoch : BitVec 32)
  | readStation (slot : Byte)
  | startRing (origin : BitVec 56) (length : Byte)
  | networkReset
  | quiesceEndApply
  | releaseStation (slot : Byte)
  | startSweep
deriving DecidableEq, Repr

/-- The commands of the block: every constructor is a row of spec/opcode_table.json. -/
inductive Instr
  -- Time Base
  | powerOn
  | referenceLoss
  | refclkQualified
  | ppsEdge
  -- transactions and intake
  | transactionStart (port : PortId)
  | transactionWithoutRequest (port : PortId) (clocked : Nat)
  | frameError (port : PortId) (clocked : Nat) (fault : FrameFault)
  | unknownRequestKind (x : Xfer) (kind : Byte) (bodyLength : Byte)
  | noRequest (x : Xfer)
  -- requests that wait for the service path, as their port takes them
  | submitBlock (x : Xfer) (b : BlockReq)
  | submitReport (x : Xfer) (r : ReportReq)
  | zoneFlushed (x : Xfer) (zone : Byte) (t : BitVec 56)
  | attach (x : Xfer) (group : Byte)
  | detach (x : Xfer) (group : Byte)
  | fetchEpoch (x : Xfer) (group : Byte)
  | fetchPage (x : Xfer) (group : Byte) (epoch : BitVec 32) (page : BitVec 16)
  | ackEpoch (x : Xfer) (group : Byte) (epoch : BitVec 32)
  | readStation (x : Xfer) (slot : Byte)
  | convert (x : Xfer) (slot : Byte) (t : BitVec 56)
  | startRing (x : Xfer) (origin : BitVec 56) (length : Byte)
  | networkReset (x : Xfer)
  | quiesceEndApply (x : Xfer)
  | releaseStation (x : Xfer) (slot : Byte)
  | startSweep (x : Xfer)
  -- the grants of the service path
  | submitBlockGrant
  | submitReportGrant
  | eligibilityLossNotice
  | zoneFlushedGrant
  | attachGrant
  | detachGrant
  | fetchEpochGrant
  | fetchPageGrant
  | ackEpochGrant
  | readStationGrant
  | convertGrant
  | startRingGrant
  | networkResetGrant
  | quiesceEndApplyGrant
  | releaseStationGrant
  | startSweepGrant
  -- supervision
  | claimSupervisor (x : Xfer) (seed : BitVec 16)
  | releaseSupervisor (x : Xfer)
  | checkIn (x : Xfer) (response : BitVec 16)
  | checkinMiss
  | quiesceRequest (x : Xfer) (hold : Byte)
  | quiesceGrant
  | quiesceEndDiscard (x : Xfer)
  | quiesceHoldExpiry
  | stageShape (x : Xfer) (item : RawItem)
  | stageTuning (x : Xfer) (item : Byte) (value : BitVec 32)
  | commitTuning (x : Xfer)
  | discardTuning (x : Xfer)
  | setTime (x : Xfer) (t : BitVec 56)
  | setRights (x : Xfer) (r : RightsReq)
  -- direct requests that need no right
  | readTime (x : Xfer)
  | readCauses (x : Xfer)
  | ackCause (x : Xfer) (cause : Byte) (count : Byte)
  | setCauseMask (x : Xfer) (cause : Byte) (value : Byte)
  | status (x : Xfer)
  | resumePort (x : Xfer)
  | portReset (x : Xfer)
  -- timer events and the steps of a re-time
  | boundaryEvent
  | recordEndEvent (epoch : BitVec 32)
  | zoneDeadlineExpiry (epoch : BitVec 32) (zone : ZoneId)
  | groupStall (group : GroupId)
  | intervalDeadline
  | pulseCountReached
  | silenceExpiry (slot : Slot)
  | holdExpiry (slot : Slot)
  | retimeStart
  | retimeStep
  | retimeFinalStep
  | counterAdvance
deriving DecidableEq, Repr

end Sys2Proof
end

