-- ==== Sys2Proof/Machine/State.lean ====
section
/-! DEFINITION. The state of the part as plain data, block by block (00, section 2), and its value after power-on. Each structure's docstring names the table and rule of spec/ that it holds; ranges that a number's type does not give are in INVENTORY.md under State. -/

namespace Sys2Proof.Machine

/-- Why a step stops with a fault: never. The manual gives every request a reply and every event an effect, so no command faults; the type has no constructor. -/
inductive Fault
deriving DecidableEq, Repr

/-- Why a step is refused. -/
inductive Refusal
  /-- Raised by an arm of exec whose command has no meaning in this model; no arm does, and stopping there would be safe. -/
  | notModelled (mnemonic : String)
deriving DecidableEq, Repr

/-! ## Time Base (01, section 1.1) -/

/-- The source that advances the counter (R1). -/
inductive ClockSource
  | refclk | internal
deriving DecidableEq, Repr

/-- The Time Base's state (R1 to R5). `switchPending` holds between the qualification of REFCLK and the microsecond boundary at which the source becomes REFCLK (R3; DEDUCED, log 11). -/
structure TimeBase where
  now : Nat
  timeSet : Bool
  refPresent : Bool
  source : ClockSource
  switchPending : Bool
  slip : Nat
  phase : Option Int
deriving DecidableEq, Repr

/-! ## Station Table (02, Table 2-1; 04, Table 4-3; 07, R115) -/

/-- What is done when the fault count reaches the fault threshold (R26). -/
inductive FaultAction
  | notify | reacquire | quarantine
deriving DecidableEq, Repr

/-- The clock states of Table 2-2. -/
inductive ClockState
  | vacant | acquiring | locked | tracking | unreliable | quarantined
deriving DecidableEq, Repr

/-- The step candidate (R24). -/
structure StepCandidate where
  offset : Int
  confirmations : Nat
deriving DecidableEq, Repr

/-- The clock half of a station record (Table 2-1). -/
structure ClockHalf where
  code : Nat
  zone : ZoneId
  action : FaultAction
  state : ClockState
  anchor : Option Nat
  offset : Int
  drift : Int
  uncertainty : Nat
  generation : Gen
  acquisition : Nat
  lockOff : Nat
  faults : Nat
  candidate : Option StepCandidate
  lastAccepted : Option Nat
  lastAged : Nat
deriving DecidableEq, Repr

/-- The sequencing half of a station record (Table 4-3). Bit b - 1 of `history` is the mark of the number behind expected by b (R58); `held` lists pool records, lowest sequence first (R66). -/
structure SeqHalf where
  depth : Nat
  expected : Option SeqNo
  history : BitVec 64
  held : List Nat
  heldSince : Option Nat
  lastEnd : Option Nat
  deliveredUntil : Option Nat
  discarded : Nat
  lastArrival : Nat
  silenceMark : Nat
  silent : Bool
deriving DecidableEq, Repr

/-- The six counts of a re-time (07, section 7.1). -/
structure RetimeCounts where
  moved : Nat
  updated : Nat
  carried : Nat
  misplaced : Nat
  skipped : Nat
  leftInSealed : Nat
deriving DecidableEq, Repr

/-- A station's last re-time report (R115, R122). -/
structure RetimeReport where
  target : Gen
  counts : RetimeCounts
  restarts : Nat
  time : Nat
deriving DecidableEq, Repr

/-- A station record: the clock half (CMU), the sequencing half (ISQ), and the Epoch Ring Unit's RETIMING flag and last re-time report (R115). -/
structure Station where
  clk : ClockHalf
  sq : SeqHalf
  retiming : Bool
  lastReport : Option RetimeReport
deriving DecidableEq, Repr

/-- The sweep state of the Clock Model Unit (03, section 3.1.1). -/
structure Sweep where
  cursor : Slot
  deadline : Option Nat
  pulses : Nat
deriving DecidableEq, Repr

/-! ## Block Pool (04, Table 4-1) -/

/-- The flags of a block (Table 4-1), in the order of their bits in a page entry. -/
structure BlockFlags where
  gap : Bool
  timeGap : Bool
  overlap : Bool
  late : Bool
  lateFill : Bool
  misplaced : Bool
  retimed : Bool
deriving DecidableEq, Repr

/-- Where a block is (Table 4-1). -/
inductive Place
  | held
  | filed (epoch : Nat)
deriving DecidableEq, Repr

/-- A block record in use (Table 4-1). -/
structure Block where
  slot : Slot
  seq : SeqNo
  start : Nat
  samples : Nat
  rate : Nat
  channels : Nat
  handle : BitVec 32
  netStart : Option Nat
  netEnd : Option Nat
  generation : Gen
  flags : BlockFlags
  place : Place
deriving DecidableEq, Repr

/-- The Block Pool (R55): the records in use, by number, strictly rising; the free list is the run of records from `fresh` up that no block has ever been taken into since the last reset, followed by the records freed since, in the order of their freeing (log 8). -/
structure Pool where
  used : List (Nat × Block)
  fresh : Nat
  freed : List Nat
deriving DecidableEq, Repr

/-! ## Epoch Ring (05, section 5.1 and Table 5-1; 06, section 6.2) -/

/-- The ten statuses of Table 5-2. -/
inductive Status
  | notExpected | waiting | passed | passedGap | absentTimeout | absentFlushed
  | absentSilent | absentState | absentRemoved | absentForced
deriving DecidableEq, Repr

/-- A station entry of an epoch record (section 5.2). -/
structure Entry where
  status : Status
  gap : Bool
  count : Nat
deriving DecidableEq, Repr

/-- The condition of a zone deadline in a record (section 6.2). -/
inductive Deadline
  | absent
  | pending (due : Nat)
  | expired (due : Nat)
deriving DecidableEq, Repr

/-- A record's deadline for one zone, with its extension total in seconds (section 6.2, R106). -/
structure ZoneWait where
  deadline : Deadline
  extension : Nat
deriving DecidableEq, Repr

/-- Where an epoch record stands in its life (R83). -/
inductive RecState
  | opened | sealed | released
deriving DecidableEq, Repr

/-- Why a record was sealed (R98, R110). -/
inductive SealReason
  | complete | timed | forced
deriving DecidableEq, Repr

/-- An epoch record (Table 5-1); `ended` says that its end event has occurred (R103), and `blocks` lists pool records in filing order (R92). -/
structure Record where
  epoch : Nat
  start : Nat
  state : RecState
  reason : Option SealReason
  sealTime : Option Nat
  releaseTime : Option Nat
  ended : Bool
  entries : Vector Entry 64
  zones : Vector ZoneWait 8
  blocks : List Nat
  late : Nat
  deferred : Bool
  awaiting : GroupSet
deriving DecidableEq, Repr

/-- Whether a ring run is in progress (R80). -/
inductive RingState
  | stopped | active
deriving DecidableEq, Repr

/-- The Epoch Ring (05, section 5.1); the length is in seconds, the records run from oldest to newest. -/
structure Ring where
  state : RingState
  origin : Option Nat
  length : Option Nat
  base : Option Nat
  releaseCount : Nat
  boundary : Option Nat
  records : List Record
deriving DecidableEq, Repr

/-! ## Re-timing (07, section 7.1) -/

/-- The running re-time; a snapshot entry is a pool record and the sequence number it held. -/
structure Running where
  slot : Slot
  target : Gen
  snapshot : List (Nat × SeqNo)
  counts : RetimeCounts
  restarts : Nat
deriving DecidableEq, Repr

/-- The re-time queue, oldest first, and the re-time in progress (R115). -/
structure Retime where
  queue : List Slot
  running : Option Running
deriving DecidableEq, Repr

/-- An eligibility-loss notice handed to the Epoch Ring Unit (R15, R96). -/
structure Notice where
  slot : Slot
  status : Status
deriving DecidableEq, Repr

/-! ## Delivery groups (08, section 8.1) -/

/-- The states of a delivery group (R127). -/
inductive GroupState
  | detached | active | stalled
deriving DecidableEq, Repr

/-- A delivery group (08, section 8.1). -/
structure Group where
  state : GroupState
  cursor : Option Nat
  lastAck : Option Nat
  stall : Option Nat
deriving DecidableEq, Repr

/-! ## Supervision (09, section 9.1; 06, section 6.1; 12, Table 12-6) -/

/-- The holder of the supervisor role, with what is present while the role is held (09, section 9.1). -/
structure Holder where
  port : PortId
  challenge : BitVec 16
  windowStart : Nat
  windowLength : Nat
deriving DecidableEq, Repr

/-- The quiesce state (09, section 9.4): QUIESCING keeps the hold, in seconds, for the grant (R146); QUIESCED has the hold deadline (R147). -/
inductive Quiesce
  | running
  | quiescing (hold : Nat)
  | quiesced (deadline : Nat)
deriving DecidableEq, Repr

/-- The sweep triggers (03, section 3.1.1). -/
inductive Trigger
  | interval | pulse | manual
deriving DecidableEq, Repr

/-- A tuning set (12, Table 12-6), its items in the order of their codes. -/
structure Tuning where
  baseGate : Nat
  initialUncertainty : Nat
  uncertaintyFloor : Nat
  growth : Nat
  ceiling : Nat
  smoothing : Nat
  acquisition : Nat
  lockOffFilter : Nat
  stepConfirm : Nat
  faultThreshold : Nat
  silenceLimit : Nat
  reportAge : Nat
  futureTolerance : Nat
  ackLimit : Nat
  trigger : Trigger
  sweepN : Nat
  sweepK : Nat
  checkinPeriod : Nat
  checkinThreshold : Nat
  ppsCheck : Bool
  ppsTolerance : Nat
  supervisoryWeight : Nat
  submitWeight : Nat
  consumeWeight : Nat
  localityBonus : Nat
  ageStep : Nat
  ageMax : Nat
  guardLimit : Nat
deriving DecidableEq, Repr

/-- The wait modes of a zone (06, section 6.1). -/
inductive WaitMode
  | fixed | adaptive | signalled | noWait
deriving DecidableEq, Repr

/-- An entry of the zone table, in seconds (06, section 6.1). -/
structure ZoneEntry where
  mode : WaitMode
  budget : Nat
  extension : Nat
  cap : Nat
  hold : Nat
deriving DecidableEq, Repr

/-- What a port does after a frame error (R161). -/
inductive FramePolicy
  | drop | halt
deriving DecidableEq, Repr

/-- How a port answers a request without its right (R164). -/
inductive ViolationPolicy
  | refuse | absorb
deriving DecidableEq, Repr

/-- An entry of the port rights table (09, section 9.1). -/
structure Rights where
  submit : Bool
  consume : Bool
  supervise : Bool
  subscriptions : GroupSet
  credit : Nat
  framePolicy : FramePolicy
  violation : ViolationPolicy
deriving DecidableEq, Repr

/-- An item of the staged shape set that passed its range checks (R149). -/
inductive ShapeItem
  | addStation (slot : Slot) (code : Nat) (zone : ZoneId) (depth : Nat) (action : FaultAction)
  | removeStation (slot : Slot)
  | setStation (slot : Slot) (zone : ZoneId) (depth : Nat) (action : FaultAction)
  | setZone (zone : ZoneId) (entry : ZoneEntry)
deriving DecidableEq, Repr

/-- The Supervision Unit's state (09, section 9.1). -/
structure Supervision where
  role : Option Holder
  errors : Nat
  quiesce : Quiesce
  staged : List ShapeItem
  active : Tuning
  stagedTuning : Option Tuning
  committed : Option Tuning
  zones : Vector ZoneEntry 8
  rights : Vector Rights 4
deriving DecidableEq, Repr

/-! ## Client ports, scheduler and attention (10, section 10.1; 11, section 11.1; 12) -/

/-- The outcome codes of Table 12-4. -/
inductive Code
  | done | anchored | accepted | rejected | stepTaken | filed | held | duplicate | stale
  | future | poolFull | badRequest | noStation | quarantinedStation | offsetRange
  | ringStopped | quiesced | notSupervisor | wrongState | timeUnset | timeLocked | already
  | early | wrong | shapeInvalid | stageFull | noModel | staleReport | selfTarget
  | notSubscribed | notAttached | outOfOrder | staleAck | denied | noCredit | halted
  | busy | aborted | noneReady
deriving DecidableEq, Repr

/-- A field of a reply's data part, in the encodings of R176: an unsigned number or a signed one in so many bytes, a field of two values, the optional forms with their presence byte, marks packed as the gap marks are, flags packed as the block flags are, and codes packed two to a byte as the station statuses are. -/
inductive Field
  | num (bytes : Nat) (value : Nat)
  | int (bytes : Nat) (value : Int)
  | bit (value : Bool)
  | optNum (bytes : Nat) (value : Option Nat)
  | optInt (bytes : Nat) (value : Option Int)
  | marks (values : List Bool)
  | flags (values : List Bool)
  | nibbles (codes : List Nat)
deriving DecidableEq, Repr

/-- A frame of an outbound queue (R177). -/
inductive OutFrame
  | reply (tag kind : Byte) (code : Code) (data : List Field)
  | haltNotice (fault : FrameFault)
deriving DecidableEq, Repr

/-- A request in a port's pending queue. -/
structure Queued where
  tag : Byte
  req : ServiceReq
deriving DecidableEq, Repr

/-- The CONVERT in a port's urgent slot (R31, R165). -/
structure Urgent where
  tag : Byte
  slot : Byte
  time : BitVec 56
deriving DecidableEq, Repr

/-- A cause record of a port (11, section 11.1). -/
structure CauseRec where
  pending : Bool
  count : BitVec 8
  mask : Bool
deriving DecidableEq, Repr

/-- The transaction in progress on a port (R159): whether the frame chosen when select fell stands in the outbound queue (otherwise it is an IDLE frame), and its bytes, header and CRC included. -/
structure Txn where
  queued : Bool
  bytes : List Byte
deriving DecidableEq, Repr

/-- A client port's state, the Request Scheduler's and the Attention Unit's part of it included (10, section 10.1; 11, section 11.1). `sent` is the model's own: the bytes that CPn_SDO carried in the last transaction that ended (log 27). -/
structure PortState where
  out : List OutFrame
  reservations : Nat
  inFlight : Nat
  halted : Bool
  dropped : Nat
  queue : List Queued
  urgent : Option Urgent
  age : Nat
  guards : Nat
  overdue : Bool
  causes : Vector CauseRec 21
  txn : Option Txn
  sent : List Byte
deriving DecidableEq, Repr

/-- What the Request Scheduler holds for all ports: the grant order, least recently granted first, and the locality slot (R158, R166). -/
structure Sched where
  order : List PortId
  locality : Option Slot
deriving DecidableEq, Repr

/-- The state of the part. `notices`, `sealMade` and `pending` are the model's own (log 5, 7, 1). -/
structure State where
  tb : TimeBase
  stations : Vector Station 64
  sweep : Sweep
  silenceClock : Nat
  pool : Pool
  ring : Ring
  retime : Retime
  groups : Vector Group 4
  sup : Supervision
  ports : Vector PortState 4
  sched : Sched
  notices : List Notice
  sealMade : Bool
  pending : List Instr
deriving DecidableEq, Repr

/-! ## Values after power-on -/

/-- The VACANT value of the clock half (Table 2-1). -/
def ClockHalf.vacant : ClockHalf :=
  { code := 0, zone := 0, action := .notify, state := .vacant, anchor := none, offset := 0,
    drift := 0, uncertainty := 0, generation := 0, acquisition := 0, lockOff := 0, faults := 0,
    candidate := none, lastAccepted := none, lastAged := 0 }

/-- The power-on value of the sequencing half (R57), also that of a VACANT record. -/
def SeqHalf.vacant : SeqHalf :=
  { depth := 2, expected := none, history := 0, held := [], heldSince := none, lastEnd := none,
    deliveredUntil := none, discarded := 0, lastArrival := 0, silenceMark := 0, silent := false }

/-- A VACANT station record (R12, R57, R115). -/
def Station.vacant : Station :=
  { clk := .vacant, sq := .vacant, retiming := false, lastReport := none }

/-- The defaults of Table 12-6. -/
def Tuning.default : Tuning :=
  { baseGate := 500, initialUncertainty := 2000, uncertaintyFloor := 100, growth := 50,
    ceiling := 50000, smoothing := 3, acquisition := 3, lockOffFilter := 3, stepConfirm := 3,
    faultThreshold := 5, silenceLimit := 120, reportAge := 600, futureTolerance := 10,
    ackLimit := 60, trigger := .interval, sweepN := 4, sweepK := 16, checkinPeriod := 20,
    checkinThreshold := 4, ppsCheck := true, ppsTolerance := 50, supervisoryWeight := 6,
    submitWeight := 4, consumeWeight := 2, localityBonus := 2, ageStep := 1, ageMax := 12,
    guardLimit := 4 }

/-- The defaults of a zone entry (06, section 6.1). -/
def ZoneEntry.default : ZoneEntry :=
  { mode := .fixed, budget := 5, extension := 1, cap := 30, hold := 2 }

/-- The rights entry of port CPn at power-on (R139). -/
def Rights.default (n : PortId) : Rights :=
  { submit := true, consume := true, supervise := true, subscriptions := 1#4 <<< n.val,
    credit := 4, framePolicy := .drop, violation := .refuse }

/-- A cause record of a reset port: clear, count 0, mask enabled (R172). -/
def CauseRec.clear : CauseRec := { pending := false, count := 0, mask := true }

/-- The cause records of a port at power-on: RESET_NOTICE, order 0, is pending with count 1 (R172). -/
def powerOnCauses : Vector CauseRec 21 :=
  Vector.ofFn fun i => if i.val = 0 then { pending := true, count := 1, mask := true } else .clear

/-- A port's state at power-on (R158, R172). -/
def PortState.initial : PortState :=
  { out := [], reservations := 0, inFlight := 0, halted := false, dropped := 0, queue := [],
    urgent := none, age := 0, guards := 0, overdue := false, causes := powerOnCauses,
    txn := none, sent := [] }

/-- A ring that is STOPPED and empty (R80, R101). -/
def Ring.empty : Ring :=
  { state := .stopped, origin := none, length := none, base := none, releaseCount := 0,
    boundary := none, records := [] }

/-- A pool with every record free, in ascending order (R55, R78). -/
def Pool.empty : Pool := { used := [], fresh := 0, freed := [] }

/-- A DETACHED group (R127). -/
def Group.detached : Group := { state := .detached, cursor := none, lastAck := none, stall := none }

/-- The part right after power-on: every block's power-on value (R1, R3, R4, R5, R12, R40, R50, R55, R57, R80, R115, R127, R139, R158, R172), and the model's own fields empty. -/
def State.reset : State :=
  { tb := { now := 0, timeSet := false, refPresent := false, source := .internal,
            switchPending := false, slip := 0, phase := none }
    stations := Vector.ofFn fun _ => .vacant
    sweep := { cursor := 0, deadline := some 4000000, pulses := 0 }
    silenceClock := 0
    pool := .empty
    ring := .empty
    retime := { queue := [], running := none }
    groups := Vector.ofFn fun _ => .detached
    sup := { role := none, errors := 0, quiesce := .running, staged := [], active := .default,
             stagedTuning := none, committed := none, zones := Vector.ofFn fun _ => .default,
             rights := Vector.ofFn fun n => .default n }
    ports := Vector.ofFn fun _ => .initial
    sched := { order := [0, 1, 2, 3], locality := none }
    notices := []
    sealMade := false
    pending := [] }

end Sys2Proof.Machine
end

