-- ==== Sys2Proof/Machine/Flags.lean ====
section
/-! DEFINITION. Flags and statuses: the block flags of Table 4-1, the station statuses of Table 5-2, what a clock state allows (Table 2-2), and the attention causes of Table 11-1 with a port's line (R172, R173). -/

namespace Sys2Proof.Machine

/-! ## Block flags (R54) -/

/-- The flags of a block record when it is filled: empty (R54). -/
def BlockFlags.none : BlockFlags :=
  { gap := false, timeGap := false, overlap := false, late := false, lateFill := false,
    misplaced := false, retimed := false }

/-- The flags in the order of their bits in a page entry (12.4). -/
def BlockFlags.list (f : BlockFlags) : List Bool :=
  [f.gap, f.timeGap, f.overlap, f.late, f.lateFill, f.misplaced, f.retimed]

/-- Whether the flags set a station's gap mark: GAP or TIME_GAP (R93). -/
def BlockFlags.marksGap (f : BlockFlags) : Bool := f.gap || f.timeGap

/-! ## Statuses and record states -/

/-- PASSED or PASSED_GAP: the station's delivered blocks cover the record (Table 5-2). -/
def Status.isPassed (x : Status) : Bool := x == .passed || x == .passedGap

/-- The statuses that an eligibility-loss notice, a deadline, a flush or an eviction may give a WAITING entry (R84): every ABSENT status. -/
def Status.isAbsent (x : Status) : Bool :=
  x == .absentTimeout || x == .absentFlushed || x == .absentSilent || x == .absentState ||
    x == .absentRemoved || x == .absentForced

/-- PASSED, or PASSED_GAP when the gap mark is set (R85, R94). -/
def passedStatus (gap : Bool) : Status := if gap then .passedGap else .passed

/-- Whether the record is OPEN (R83). -/
def Record.isOpen (r : Record) : Bool := r.state == .opened

/-- Whether the record is RELEASED (R83). -/
def Record.isReleased (r : Record) : Bool := r.state == .released

/-! ## Clock states (Table 2-2) -/

/-- LOCKED or TRACKING: the clock states in which a station can be eligible (R14). -/
def ClockState.canBeEligible (c : ClockState) : Bool := c == .locked || c == .tracking

/-- ACQUIRING or QUARANTINED: the station's reorder list is frozen (R75). -/
def ClockState.frozen (c : ClockState) : Bool := c == .acquiring || c == .quarantined

/-- LOCKED, TRACKING or UNRELIABLE: the states whose uncertainty the sweep grows (R45). -/
def ClockState.aged (c : ClockState) : Bool := c.canBeEligible || c == .unreliable

/-! ## Attention causes (Table 11-1) -/

/-- The causes of Table 11-1. -/
inductive Cause
  | resetNotice | supervisorLapsed | supervisorReleased | networkResetDone | timeDegraded
  | referenceSlip | frameError | accessViolation | contender | checkinError | quiesceGranted
  | quiesceExpired | tuningTaken | retimeDone | stationFault | stepTaken | stationState
  | poolExhausted | epochReleased | groupOverrun | groupStalled
deriving DecidableEq, Repr

/-- A cause's place in the fixed order of Table 11-1. -/
def Cause.order : Cause → Fin 21
  | .resetNotice => 0
  | .supervisorLapsed => 1
  | .supervisorReleased => 2
  | .networkResetDone => 3
  | .timeDegraded => 4
  | .referenceSlip => 5
  | .frameError => 6
  | .accessViolation => 7
  | .contender => 8
  | .checkinError => 9
  | .quiesceGranted => 10
  | .quiesceExpired => 11
  | .tuningTaken => 12
  | .retimeDone => 13
  | .stationFault => 14
  | .stepTaken => 15
  | .stationState => 16
  | .poolExhausted => 17
  | .epochReleased => 18
  | .groupOverrun => 19
  | .groupStalled => 20

/-- One raising of a cause on a port's record: pending, and the count up by 1, wrapping (R172). -/
def CauseRec.raise (c : CauseRec) : CauseRec := { c with pending := true, count := c.count + 1 }

/-- A raising on a port's state (R172). -/
def PortState.raise (p : PortState) (c : Cause) : PortState :=
  { p with causes := p.causes.set c.order.val p.causes[c.order.val].raise }

/-- The attention line ATTNn: at least one cause pending with its mask enabled (R173). -/
def PortState.attention (p : PortState) : Bool :=
  p.causes.toList.any fun c => c.pending && c.mask

end Sys2Proof.Machine
end

