-- ==== Sys2Proof/Machine/Operands.lean ====
section
/-! DEFINITION. Operand forms: how fields are written in frames (R176, 12.4), the codes of chapter 12, the request catalogue (Table 12-3), and the range checks of the requests whose owner judges their fields (R149, R153, R156). -/

namespace Sys2Proof.Machine

/-! ## Writing fields (R176) -/

/-- A number in so many bytes, most significant first. -/
def bytesBE : Nat → Nat → List Byte
  | 0, _ => []
  | n + 1, v => BitVec.ofNat 8 (v / 256 ^ n) :: bytesBE n v

/-- A signed number in two's complement (R176). -/
def bytesInt (n : Nat) (v : Int) : List Byte := bytesBE n (v % (256 ^ n : Nat)).toNat

/-- Eight values in one byte, the first in the highest bit. With fewer than eight values the spare bits are 0 (DESIGN CHOICE, log 12). -/
def byteMarks (l : List Bool) : Byte :=
  l.take 8 |>.zipIdx.foldl (fun b (v, i) => if v then b ||| (1#8 <<< (7 - i)) else b) 0

/-- Eight values in one byte, the first in bit 0. With fewer than eight values the spare bits are 0: 12.4 states it for bit 7 of a block's flags, and for every other set it is a DESIGN CHOICE (log 12). -/
def byteFlags (l : List Bool) : Byte :=
  l.take 8 |>.zipIdx.foldl (fun b (v, i) => if v then b ||| (1#8 <<< i) else b) 0

/-- A list of values, eight to a byte, in the packing given; `n` bytes, the first eight values in the first byte. For flags beyond one byte this order is a DESIGN CHOICE (log 12): 12.4 shows flags in one byte only, and R176 writes a field most significant byte first. -/
def packBits (f : List Bool → Byte) : Nat → List Bool → List Byte
  | 0, _ => []
  | n + 1, l => f l :: packBits f n (l.drop 8)

/-- Codes of four bits, two to a byte, the first in the upper four bits (12.4). -/
def packNibbles : List Nat → List Byte
  | a :: b :: l => BitVec.ofNat 8 (a * 16 + b) :: packNibbles l
  | [a] => [BitVec.ofNat 8 (a * 16)]
  | [] => []

/-- The bytes of one field of a reply (R176). -/
def Field.bytes : Field → List Byte
  | .num n v => bytesBE n v
  | .int n v => bytesInt n v
  | .bit b => [if b then 1 else 0]
  | .optNum n (some v) => 1 :: bytesBE n v
  | .optNum n .none => 0 :: bytesBE n 0
  | .optInt n (some v) => 1 :: bytesInt n v
  | .optInt n .none => 0 :: bytesBE n 0
  | .marks l => packBits byteMarks ((l.length + 7) / 8) l
  | .flags l => packBits byteFlags ((l.length + 7) / 8) l
  | .nibbles l => packNibbles l

/-! ## Codes (Tables 12-4 and 12-5) -/

/-- The outcome codes of Table 12-4. -/
def Code.num : Code → Nat
  | .done => 0
  | .anchored => 1
  | .accepted => 2
  | .rejected => 3
  | .stepTaken => 4
  | .filed => 5
  | .held => 6
  | .duplicate => 7
  | .stale => 8
  | .future => 9
  | .poolFull => 10
  | .badRequest => 11
  | .noStation => 12
  | .quarantinedStation => 13
  | .offsetRange => 14
  | .ringStopped => 15
  | .quiesced => 16
  | .notSupervisor => 17
  | .wrongState => 18
  | .timeUnset => 19
  | .timeLocked => 20
  | .already => 21
  | .early => 22
  | .wrong => 23
  | .shapeInvalid => 24
  | .stageFull => 25
  | .noModel => 26
  | .staleReport => 27
  | .selfTarget => 28
  | .notSubscribed => 29
  | .notAttached => 30
  | .outOfOrder => 31
  | .staleAck => 32
  | .denied => 33
  | .noCredit => 34
  | .halted => 35
  | .busy => 36
  | .aborted => 37
  | .noneReady => 38

/-- The station status codes of Table 12-5. -/
def Status.num : Status → Nat
  | .notExpected => 0
  | .waiting => 1
  | .passed => 2
  | .passedGap => 3
  | .absentTimeout => 4
  | .absentFlushed => 5
  | .absentSilent => 6
  | .absentState => 7
  | .absentRemoved => 8
  | .absentForced => 9

/-- The clock state codes of Table 12-5. -/
def ClockState.num : ClockState → Nat
  | .vacant => 0
  | .acquiring => 1
  | .locked => 2
  | .tracking => 3
  | .unreliable => 4
  | .quarantined => 5

/-- The seal reason codes of Table 12-5. -/
def SealReason.num : SealReason → Nat
  | .complete => 1
  | .timed => 2
  | .forced => 3

/-- The record state codes of Table 12-5; 0 stands for a record not yet opened. -/
def RecState.num : RecState → Nat
  | .opened => 1
  | .sealed => 2
  | .released => 3

/-- The group state codes of Table 12-5. -/
def GroupState.num : GroupState → Nat
  | .detached => 0
  | .active => 1
  | .stalled => 2

/-- The fault action codes of Table 12-5. -/
def FaultAction.num : FaultAction → Nat
  | .notify => 0
  | .reacquire => 1
  | .quarantine => 2

/-- The fault action a code names (Table 12-5). -/
def faultActionOf : Nat → Option FaultAction
  | 0 => some .notify
  | 1 => some .reacquire
  | 2 => some .quarantine
  | _ => none

/-- The wait mode a code names (Table 12-5). -/
def waitModeOf : Nat → Option WaitMode
  | 0 => some .fixed
  | 1 => some .adaptive
  | 2 => some .signalled
  | 3 => some .noWait
  | _ => none

/-- The sweep trigger a code names (Table 12-5); codes above 2 are refused before this is read. -/
def triggerOf : Nat → Trigger
  | 0 => .interval
  | 1 => .pulse
  | _ => .manual

/-- The clock source codes of Table 12-5. -/
def ClockSource.num : ClockSource → Nat
  | .refclk => 0
  | .internal => 1

/-- The quiesce state codes of Table 12-5. -/
def Quiesce.num : Quiesce → Nat
  | .running => 0
  | .quiescing _ => 1
  | .quiesced _ => 2

/-- The frame policy codes (12.5). -/
def FramePolicy.num : FramePolicy → Nat
  | .drop => 0
  | .halt => 1

/-- The violation policy codes (12.5). -/
def ViolationPolicy.num : ViolationPolicy → Nat
  | .refuse => 0
  | .absorb => 1

/-- The fault a halt notice names in the outcome position (R177). -/
def faultNum : FrameFault → Nat
  | .truncated => 1
  | .corrupt => 2

/-! ## The request catalogue (Table 12-3) -/

/-- The body length that a kind code requires; none for a code that is not in the table. -/
def requestLength (kind : Nat) : Option Nat :=
  [0, 18, 16, 8, 1, 1, 1, 7, 5, 1, 8, 8, 0, 0, 1, 0, 2, 0, 2, 1, 0, 8, 5, 0, 0, 7, 6, 0, 0, 2, 2,
    0, 0, 0][kind]?

/-- The kind code of a request that waits for the service path. -/
def reqKind : ServiceReq → Byte
  | .submitBlock _ => 1
  | .submitReport _ => 2
  | .zoneFlushed _ _ => 3
  | .attach _ => 4
  | .detach _ => 5
  | .fetchEpoch _ => 6
  | .fetchPage _ _ _ => 7
  | .ackEpoch _ _ => 8
  | .readStation _ => 9
  | .startRing _ _ => 11
  | .networkReset => 12
  | .quiesceEndApply => 13
  | .releaseStation _ => 14
  | .startSweep => 15

/-- The classes of the service path (Table 10-1). -/
inductive ReqClass
  | submit | consume | supervisory
deriving DecidableEq, Repr

/-- The class of a request that waits for the service path (Table 10-1). -/
def reqClass : ServiceReq → ReqClass
  | .submitBlock _ | .submitReport _ | .zoneFlushed _ _ => .submit
  | .attach _ | .detach _ | .fetchEpoch _ | .fetchPage _ _ _ | .ackEpoch _ _
  | .readStation _ => .consume
  | .startRing _ _ | .networkReset | .quiesceEndApply | .releaseStation _
  | .startSweep => .supervisory

/-- The station slot that a request names for the locality slot, or none when it names none or names a slot above 63 (R166, R167). -/
def reqNames : ServiceReq → Option Slot
  | .submitBlock b => if h : b.slot.toNat < 64 then some ⟨b.slot.toNat, h⟩ else none
  | .submitReport r => if h : r.slot.toNat < 64 then some ⟨r.slot.toNat, h⟩ else none
  | .readStation k => if h : k.toNat < 64 then some ⟨k.toNat, h⟩ else none
  | .releaseStation k => if h : k.toNat < 64 then some ⟨k.toNat, h⟩ else none
  | .zoneFlushed _ _ | .attach _ | .detach _ | .fetchEpoch _ | .fetchPage _ _ _ | .ackEpoch _ _
  | .startRing _ _ | .networkReset | .quiesceEndApply | .startSweep => none

/-- The right that a request needs (Table 10-1). -/
inductive Need
  | none | submit | consume | supervise
deriving DecidableEq, Repr

/-- The right that the class of a service-path request needs (Table 10-1). -/
def ReqClass.need : ReqClass → Need
  | .submit => .submit
  | .consume => .consume
  | .supervisory => .supervise

/-- Whether a rights entry grants a need. -/
def Rights.grants (r : Rights) : Need → Bool
  | .none => true
  | .submit => r.submit
  | .consume => r.consume
  | .supervise => r.supervise

/-- A slot operand as encoded, 0 to 255: the station slot, or none above 63. -/
def slotOf (b : Byte) : Option Slot :=
  if h : b.toNat < 64 then some ⟨b.toNat, h⟩ else none

/-- A zone operand as encoded: the zone, or none above 7. -/
def zoneOf (b : Byte) : Option ZoneId :=
  if h : b.toNat < 8 then some ⟨b.toNat, h⟩ else none

/-- A group operand as encoded: the group, or none above 3. -/
def groupOf (b : Byte) : Option GroupId :=
  if h : b.toNat < 4 then some ⟨b.toNat, h⟩ else none

/-- A port operand as encoded: the port, or none above 3. -/
def portOf (b : Byte) : Option PortId :=
  if h : b.toNat < 4 then some ⟨b.toNat, h⟩ else none

/-- A cause operand as encoded: the order number of Table 11-1, or none above 20. -/
def causeOf (b : Byte) : Option (Fin 21) :=
  if h : b.toNat < 21 then some ⟨b.toNat, h⟩ else none

/-! ## Sample rates (Table 4-2) -/

/-- The sample interval of a rate code in microseconds; none for a code above 8. -/
def sampleInterval (rate : Nat) : Option Nat :=
  [1000000, 100000, 50000, 25000, 20000, 10000, 5000, 4000, 2000][rate]?

/-- The duration of so many samples at a rate code (R54). -/
def duration (samples rate : Nat) : Nat := samples * (sampleInterval rate).getD 0

/-! ## Tuning items (Table 12-6) -/

/-- The range of a tuning item by its code; none for an unknown code. -/
def tuningRange : Nat → Option (Nat × Nat)
  | 1 => some (1, 1000000)
  | 2 => some (0, 1000000)
  | 3 => some (0, 65535)
  | 4 => some (0, 100000)
  | 5 => some (1, 10000000)
  | 6 => some (0, 7)
  | 7 => some (1, 7)
  | 8 => some (1, 7)
  | 9 => some (2, 7)
  | 10 => some (1, 15)
  | 11 => some (1, 3600)
  | 12 => some (10, 86400)
  | 13 => some (1, 60)
  | 14 => some (1, 3600)
  | 15 => some (0, 2)
  | 16 => some (1, 255)
  | 17 => some (1, 64)
  | 18 => some (1, 255)
  | 19 => some (1, 15)
  | 20 => some (0, 1)
  | 21 => some (0, 1000)
  | 22 => some (0, 7)
  | 23 => some (0, 7)
  | 24 => some (0, 7)
  | 25 => some (0, 7)
  | 26 => some (1, 3)
  | 27 => some (1, 15)
  | 28 => some (1, 15)
  | _ => none

/-- A tuning set with one item given a value (R153); an unknown code leaves the set as it is. -/
def Tuning.put (t : Tuning) (item v : Nat) : Tuning :=
  match item with
  | 1 => { t with baseGate := v }
  | 2 => { t with initialUncertainty := v }
  | 3 => { t with uncertaintyFloor := v }
  | 4 => { t with growth := v }
  | 5 => { t with ceiling := v }
  | 6 => { t with smoothing := v }
  | 7 => { t with acquisition := v }
  | 8 => { t with lockOffFilter := v }
  | 9 => { t with stepConfirm := v }
  | 10 => { t with faultThreshold := v }
  | 11 => { t with silenceLimit := v }
  | 12 => { t with reportAge := v }
  | 13 => { t with futureTolerance := v }
  | 14 => { t with ackLimit := v }
  | 15 => { t with trigger := triggerOf v }
  | 16 => { t with sweepN := v }
  | 17 => { t with sweepK := v }
  | 18 => { t with checkinPeriod := v }
  | 19 => { t with checkinThreshold := v }
  | 20 => { t with ppsCheck := v == 1 }
  | 21 => { t with ppsTolerance := v }
  | 22 => { t with supervisoryWeight := v }
  | 23 => { t with submitWeight := v }
  | 24 => { t with consumeWeight := v }
  | 25 => { t with localityBonus := v }
  | 26 => { t with ageStep := v }
  | 27 => { t with ageMax := v }
  | 28 => { t with guardLimit := v }
  | _ => t

/-! ## Shape items and rights entries, checked field by field in the order their rule lists them -/

/-- The range checks of a STAGE_SHAPE item (R149): the item, or the offset of the first field out of range in the order of R149 (R176; DESIGN CHOICE, log 20). -/
def parseShape : RawItem → Except Nat ShapeItem
  | .addStation slot code zone depth action =>
    match slotOf slot, zoneOf zone, faultActionOf action.toNat with
    | none, _, _ => .error 1
    | some _, none, _ => .error 4
    | some k, some z, a =>
      if 6 < depth.toNat then .error 5 else
      match a with
      | none => .error 6
      | some a => .ok (.addStation k code.toNat z depth.toNat a)
  | .removeStation slot =>
    match slotOf slot with
    | none => .error 1
    | some k => .ok (.removeStation k)
  | .setStation slot zone depth action =>
    match slotOf slot, zoneOf zone, faultActionOf action.toNat with
    | none, _, _ => .error 1
    | some _, none, _ => .error 2
    | some k, some z, a =>
      if 6 < depth.toNat then .error 3 else
      match a with
      | none => .error 4
      | some a => .ok (.setStation k z depth.toNat a)
  | .setZone zone mode budget extension cap hold =>
    match zoneOf zone, waitModeOf mode.toNat with
    | none, _ => .error 1
    | some _, none => .error 2
    | some z, some m =>
      if 3600 < cap.toNat then .error 5 else
      .ok (.setZone z { mode := m, budget := budget.toNat, extension := extension.toNat,
                        cap := cap.toNat, hold := hold.toNat })
  | .unknown _ => .error 0

/-- The range checks of a SET_RIGHTS, port first, then credit limit, policies, and the sets (R156, R176; order among the last four DESIGN CHOICE, log 20): the port and its new entry, or the offset of the first field found out of range. -/
def parseRights (r : RightsReq) : Except Nat (PortId × Rights) :=
  match portOf r.port with
  | none => .error 0
  | some p =>
    if r.credit.toNat < 1 ∨ 8 < r.credit.toNat then .error 3
    else if 1 < r.framePolicy.toNat then .error 4
    else if 1 < r.violationPolicy.toNat then .error 5
    else if 7 < r.rights.toNat then .error 1
    else if 15 < r.subscriptions.toNat then .error 2
    else .ok (p, { submit := r.rights.getLsbD 0, consume := r.rights.getLsbD 1,
                   supervise := r.rights.getLsbD 2, subscriptions := r.subscriptions.setWidth 4,
                   credit := r.credit.toNat,
                   framePolicy := if r.framePolicy.toNat = 1 then .halt else .drop,
                   violation := if r.violationPolicy.toNat = 1 then .absorb else .refuse })

end Sys2Proof.Machine
end

