-- ==== Sys2Proof/Machine/Ops.lean ====
section
/-! DEFINITION. The named operations that the blocks share: reading and writing the tables, the arithmetic of time and epochs (R9, R10), conversion of station time (R30), eligibility (R14), raising causes (R172), and the Block Pool (R54, R55). -/

namespace Sys2Proof.Machine

/-! ## Tables of fixed size -/

/-- A table with one entry replaced. -/
def put {α : Type} {n : Nat} (v : Vector α n) (i : Fin n) (x : α) : Vector α n :=
  v.set i.val x i.isLt

/-- A table with every entry replaced by a function of its index and old value. -/
def imap {α β : Type} {n : Nat} (f : Fin n → α → β) (v : Vector α n) : Vector β n :=
  Vector.ofFn fun i => f i v[i]

/-- The value at a key of an association list. -/
def assocGet {α : Type} : List (Nat × α) → Nat → Option α
  | [], _ => none
  | (j, x) :: l, i => if j = i then some x else assocGet l i

/-- An association list with rising keys, with the value at a key written. -/
def assocPut {α : Type} : List (Nat × α) → Nat → α → List (Nat × α)
  | [], i, y => [(i, y)]
  | (j, x) :: l, i, y =>
    if i < j then (i, y) :: (j, x) :: l
    else if j = i then (i, y) :: l
    else (j, x) :: assocPut l i y

/-- An association list without a key. -/
def assocDel {α : Type} (l : List (Nat × α)) (i : Nat) : List (Nat × α) :=
  l.filter fun e => e.1 != i

/-! ## Reading and writing the parts of the state -/

/-- The record of a station slot. -/
def station (k : Slot) (s : State) : Station := s.stations[k]

/-- The state with a station record changed. -/
def updStation (k : Slot) (f : Station → Station) (s : State) : State :=
  { s with stations := put s.stations k (f s.stations[k]) }

/-- The state with the clock half of a station record changed. -/
def updClk (k : Slot) (f : ClockHalf → ClockHalf) (s : State) : State :=
  updStation k (fun st => { st with clk := f st.clk }) s

/-- The state with the sequencing half of a station record changed. -/
def updSeq (k : Slot) (f : SeqHalf → SeqHalf) (s : State) : State :=
  updStation k (fun st => { st with sq := f st.sq }) s

/-- A client port. -/
def port (p : PortId) (s : State) : PortState := s.ports[p]

/-- The state with a client port changed. -/
def updPort (p : PortId) (f : PortState → PortState) (s : State) : State :=
  { s with ports := put s.ports p (f s.ports[p]) }

/-- A delivery group. -/
def group (g : GroupId) (s : State) : Group := s.groups[g]

/-- The state with a delivery group changed. -/
def updGroup (g : GroupId) (f : Group → Group) (s : State) : State :=
  { s with groups := put s.groups g (f s.groups[g]) }

/-- An entry of the port rights table. -/
def rightsOf (p : PortId) (s : State) : Rights := s.sup.rights[p]

/-- An entry of the zone table. -/
def zoneEntry (z : ZoneId) (s : State) : ZoneEntry := s.sup.zones[z]

/-- The active tuning set. -/
def tuning (s : State) : Tuning := s.sup.active

/-- Now: the Reference Time Counter (R1). -/
def now (s : State) : Nat := s.tb.now

/-- The state with the ring changed. -/
def updRing (f : Ring → Ring) (s : State) : State := { s with ring := f s.ring }

/-- The state with every epoch record changed. -/
def updRecords (f : Record → Record) (s : State) : State :=
  updRing (fun r => { r with records := r.records.map f }) s

/-- The state with the record of one epoch changed. -/
def updRecord (n : Nat) (f : Record → Record) (s : State) : State :=
  updRecords (fun r => if r.epoch = n then f r else r) s

/-- The state with the pool changed. -/
def updPool (f : Pool → Pool) (s : State) : State := { s with pool := f s.pool }

/-- The state with the Supervision Unit changed. -/
def updSup (f : Supervision → Supervision) (s : State) : State := { s with sup := f s.sup }

/-- The state with the Time Base changed. -/
def updTb (f : TimeBase → TimeBase) (s : State) : State := { s with tb := f s.tb }

/-! ## Time (R8, R9) -/

/-- A time computed from a formula, held within 0 to 2^56 - 1 (R9). -/
def holdTime (x : Int) : Nat := min x.toNat Config.timeMax

/-- A value held between two limits (R9). -/
def holdBetween (lo hi x : Int) : Int := max lo (min hi x)

/-- Seconds as microseconds (R9). -/
def seconds (n : Nat) : Nat := n * 1000000

/-- An interval measured as now minus a stored value, 0 when now is the smaller (R8). -/
def elapsed (s : State) (stored : Nat) : Nat := now s - stored

/-- Whether a deadline is present and now is at or after it (R8). No latch remembers that now reached it before: after a backward step its event waits until now reaches it again (DESIGN CHOICE, log 30). -/
def due (s : State) (d : Option Nat) : Bool :=
  match d with
  | some t => decide (t ≤ now s)
  | none => false

/-- The limit of the future tolerance: now + the tolerance (R63, R87), held in range (R9). -/
def futureLimit (s : State) : Nat := holdTime (now s + seconds (tuning s).futureTolerance : Nat)

/-- Truncated division of an exact product by 10^9, as the drift terms use it (R9). -/
def perBillion (x : Int) : Int := x.tdiv 1000000000

/-! ## Epochs (R10) -/

/-- The epoch length in microseconds. -/
def Ring.lengthUs (r : Ring) : Nat := seconds (r.length.getD 0)

/-- The start of epoch n: O + n × L (R10), held in range as a network time (R9). -/
def Ring.epochStart (r : Ring) (n : Nat) : Nat := holdTime (r.origin.getD 0 + n * r.lengthUs : Nat)

/-- The end of epoch n: O + (n + 1) × L (R10), held in range as a network time (R9). -/
def Ring.epochEnd (r : Ring) (n : Nat) : Nat := r.epochStart (n + 1)

/-- The epoch of a network time, none before the origin (R10). -/
def Ring.epochOf (r : Ring) (t : Nat) : Option Nat :=
  if t < r.origin.getD 0 then none else some ((t - r.origin.getD 0) / r.lengthUs)

/-- Whether network times overlap epoch n: the start before its end and the end after its start (R10). -/
def Ring.overlaps (r : Ring) (netStart netEnd n : Nat) : Bool :=
  decide (netStart < r.epochEnd n) && decide (r.epochStart n < netEnd)

/-- Whether a block overlaps epoch n by the network times it has; a held block has none and overlaps nothing. -/
def Ring.blockOverlaps (r : Ring) (b : Block) (n : Nat) : Bool :=
  match b.netStart, b.netEnd with
  | some a, some e => r.overlaps a e n
  | _, _ => false

/-- The record of an epoch, when it is in the ring. -/
def findRecord (n : Nat) (s : State) : Option Record := s.ring.records.find? (·.epoch = n)

/-- The epoch of the oldest record. -/
def oldest (s : State) : Option Nat := s.ring.records.head?.map (·.epoch)

/-- The newest record. -/
def newest (s : State) : Option Record := s.ring.records.getLast?

/-- The epoch of the oldest OPEN record (R90). -/
def oldestOpen (s : State) : Option Nat := (s.ring.records.find? Record.isOpen).map (·.epoch)

/-- The next epoch to be released: base + release count (R112); absent while the ring is STOPPED. -/
def releaseNext (s : State) : Option Nat := s.ring.base.map (· + s.ring.releaseCount)

/-! ## Stations -/

/-- A station time converted with a model: T + offset + trunc((T - anchor) × drift / 10^9), held in range (R30). Every requester tests for a model first; without one the anchor would read as 0 (log 21). -/
def ClockHalf.convert (c : ClockHalf) (t : Nat) : Nat :=
  holdTime (t + c.offset + perBillion ((t - c.anchor.getD 0 : Int) * c.drift))

/-- Clearing the model; the generation stays (R12). -/
def ClockHalf.clearModel (c : ClockHalf) : ClockHalf :=
  { c with anchor := none, offset := 0, drift := 0, uncertainty := 0, acquisition := 0,
           lockOff := 0, faults := 0, candidate := none, lastAccepted := none }

/-- Eligibility: LOCKED or TRACKING, SILENT clear, and a zone that waits (R14). -/
def eligible (k : Slot) (s : State) : Bool :=
  (station k s).clk.state.canBeEligible && !(station k s).sq.silent &&
    (zoneEntry (station k s).clk.zone s).mode != .noWait

/-- Whether a station's delivered-until is present and covers epoch n (R10, R94). -/
def covers (k : Slot) (n : Nat) (s : State) : Bool :=
  match (station k s).sq.deliveredUntil with
  | some d => decide (s.ring.epochEnd n ≤ d)
  | none => false

/-- A model in use for blocks: an anchor is present (R12). -/
def hasModel (k : Slot) (s : State) : Bool := (station k s).clk.anchor.isSome

/-! ## Raising causes (R172) -/

/-- The port that holds the supervisor role (R172). -/
def supPort (s : State) : Option PortId := s.sup.role.map (·.port)

/-- Whether a port holds the supervisor role. -/
def isSup (p : PortId) (s : State) : Bool := supPort s == some p

/-- A cause raised once on every port selected (R172). -/
def raiseIf (sel : PortId → Bool) (c : Cause) (s : State) : State :=
  { s with ports := imap (fun p ps => if sel p then ps.raise c else ps) s.ports }

/-- A cause raised on all four ports. -/
def raiseAll (c : Cause) (s : State) : State := raiseIf (fun _ => true) c s

/-- A cause raised on the supervisor port, on none when the role is FREE. -/
def raiseSup (c : Cause) (s : State) : State := raiseIf (fun p => isSup p s) c s

/-- A cause raised on a port and on the supervisor port, once when they are the same (R16, R56, R164). -/
def raiseWithSup (q : PortId) (c : Cause) (s : State) : State :=
  raiseIf (fun p => p == q || isSup p s) c s

/-! ## The Block Pool (R54, R55) -/

/-- The free count: records never taken and records freed (R55). -/
def Pool.freeCount (p : Pool) : Nat := (Config.poolRecords - p.fresh) + p.freed.length

/-- The block of a record in use. -/
def Pool.get (p : Pool) (i : Nat) : Option Block := assocGet p.used i

/-- The pool with a record in use rewritten; a free record stays free. -/
def Pool.upd (p : Pool) (i : Nat) (f : Block → Block) : Pool :=
  match p.get i with
  | some b => { p with used := assocPut p.used i (f b) }
  | none => p

/-- The record at the head of the free list, when the list is not empty. -/
def Pool.head (p : Pool) : Option Nat :=
  if p.fresh < Config.poolRecords then some p.fresh else p.freed.head?

/-- The record at the head of the free list taken and filled (R54, R55). -/
def Pool.take (p : Pool) (b : Block) : Pool :=
  if p.fresh < Config.poolRecords then
    { p with used := assocPut p.used p.fresh b, fresh := p.fresh + 1 }
  else
    match p.freed with
    | i :: l => { p with used := assocPut p.used i b, freed := l }
    | [] => p

/-- A record in use freed: it joins the tail of the free list (R55). -/
def Pool.free (p : Pool) (i : Nat) : Pool :=
  match p.get i with
  | some _ => { p with used := assocDel p.used i, freed := p.freed ++ [i] }
  | none => p

/-- The form of a pool: record numbers in use strictly rise and lie below 8192, freed records are distinct, have been taken before, and are not in use; so do the records in use have been taken before. -/
def Pool.wf (p : Pool) : Bool :=
  decide ((p.used.map (·.1)).Pairwise (· < ·)) && decide (p.fresh ≤ Config.poolRecords) &&
    (p.used.all fun e => decide (e.1 < p.fresh)) && decide p.freed.Nodup &&
    (p.freed.all fun i => decide (i < p.fresh) && (p.get i).isNone) &&
    decide (p.used.length + p.freed.length = p.fresh)

/-- The records of a list freed in list order. -/
def freeBlocks (l : List Nat) (s : State) : State :=
  updPool (fun p => l.foldl Pool.free p) s

/-- The block of a pool record in use. -/
def block (i : Nat) (s : State) : Option Block := s.pool.get i

/-- The state with a block record rewritten. -/
def updBlock (i : Nat) (f : Block → Block) (s : State) : State := updPool (·.upd i f) s

/-- The blocks filed in the ring, of any station (R85). -/
def filedBlocks (s : State) : List Block :=
  (s.pool.used.map (·.2)).filter fun b => match b.place with
    | .filed _ => true
    | .held => false

/-- The pool records of a block list that hold blocks of station k (R116, R117). -/
def blocksOf (k : Slot) (l : List Nat) (s : State) : List (Nat × Block) :=
  l.filterMap fun i => match block i s with
    | some b => if b.slot = k then some (i, b) else none
    | none => none

end Sys2Proof.Machine
end

