-- ==== Sys2Proof/Machine/Frames.lean ====
section
/-! DEFINITION. Frames as bytes: the CRC of 12.2, the status header (R160, 12.3), and the outbound frame (R177). -/

namespace Sys2Proof.Machine

/-- One bit of the CRC with polynomial 0x1021, most significant bit first (12.2). -/
def crcBit (c : BitVec 16) : BitVec 16 := if c.msb then (c <<< 1) ^^^ 0x1021#16 else c <<< 1

/-- One byte of the CRC (12.2). -/
def crcByte (c : BitVec 16) (b : Byte) : BitVec 16 :=
  crcBit (crcBit (crcBit (crcBit (crcBit (crcBit (crcBit (crcBit
    (c ^^^ (b.setWidth 16 <<< 8)))))))))

/-- The CRC-16 of a byte string, from the initial value 0xFFFF, neither reflected nor inverted (12.2). -/
def crc16 (l : List Byte) : BitVec 16 := l.foldl crcByte 0xFFFF#16

/-- A byte string followed by its CRC, most significant byte first (12.2, 12.3). -/
def withCrc (l : List Byte) : List Byte := l ++ bytesBE 2 (crc16 l).toNat

/-- The body of an outbound frame (R177): type, tag, kind and outcome code, then the data part. -/
def OutFrame.body : OutFrame → List Byte
  | .reply tag kind code data =>
    [1, tag, kind, BitVec.ofNat 8 code.num] ++ data.flatMap Field.bytes
  | .haltNotice f => [2, 0, 0, BitVec.ofNat 8 (faultNum f)]

/-- The free credits of a port: its credit limit minus its in-flight count, or 0 (R160). -/
def freeCredits (p : PortId) (s : State) : Nat := (rightsOf p s).credit - (port p s).inFlight

/-- The flags byte of the status header (12.3). -/
def headerFlags (p : PortId) (s : State) : Byte :=
  (if (port p s).attention then 0x80 else 0) ||| (if (port p s).halted then 0x40 else 0) |||
    (if isSup p s then 0x20 else 0)

/-- The status header that begins an outbound frame, from the state at the moment select falls (R160, 12.3). -/
def statusHeader (p : PortId) (bodyLength : Nat) (s : State) : List Byte :=
  [BitVec.ofNat 8 (port p s).out.length, BitVec.ofNat 8 (freeCredits p s), headerFlags p s,
    BitVec.ofNat 8 (port p s).dropped] ++ bytesBE 2 bodyLength

/-- The bytes of the outbound frame with a body: header, body, CRC (R177); an IDLE frame has an empty body. -/
def outboundBytes (p : PortId) (body : List Byte) (s : State) : List Byte :=
  withCrc (statusHeader p body.length s ++ body)

/-- The transaction that begins on a port (R159): the oldest frame of its outbound queue, or an IDLE frame. -/
def beginTxn (p : PortId) (s : State) : Txn :=
  match (port p s).out with
  | f :: _ => { queued := true, bytes := outboundBytes p f.body s }
  | [] => { queued := false, bytes := outboundBytes p [] s }

/-- The bytes that CPn_SDO carries in a transaction of so many bytes (R159, R177): the chosen frame as far as it is clocked, and after its CRC bytes of 0 for as long as the master keeps clocking. -/
def Txn.sdo (t : Txn) (clocked : Nat) : List Byte :=
  t.bytes.take clocked ++ List.replicate (clocked - t.bytes.length) 0

end Sys2Proof.Machine
end

