-- ==== Sys2Proof/WellFormed.lean ====
section
/-! DEFINITION. Which commands can be sent at all: a request carries a transaction long enough for its frame (R161, R176), an unknown kind is one that the catalogue does not have, and a frame error has the length its fault needs. -/

namespace Sys2Proof

/-- The transfer and the kind code of a request of the catalogue (Table 12-3); none for the other commands. -/
def Instr.request : Instr → Option (Xfer × Nat)
  | .noRequest x => some (x, 0)
  | .submitBlock x _ => some (x, 1)
  | .submitReport x _ => some (x, 2)
  | .zoneFlushed x _ _ => some (x, 3)
  | .attach x _ => some (x, 4)
  | .detach x _ => some (x, 5)
  | .fetchEpoch x _ => some (x, 6)
  | .fetchPage x _ _ _ => some (x, 7)
  | .ackEpoch x _ _ => some (x, 8)
  | .readStation x _ => some (x, 9)
  | .convert x _ _ => some (x, 10)
  | .startRing x _ _ => some (x, 11)
  | .networkReset x => some (x, 12)
  | .quiesceEndApply x => some (x, 13)
  | .releaseStation x _ => some (x, 14)
  | .startSweep x => some (x, 15)
  | .claimSupervisor x _ => some (x, 16)
  | .releaseSupervisor x => some (x, 17)
  | .checkIn x _ => some (x, 18)
  | .quiesceRequest x _ => some (x, 19)
  | .quiesceEndDiscard x => some (x, 20)
  | .stageShape x _ => some (x, 21)
  | .stageTuning x _ _ => some (x, 22)
  | .commitTuning x => some (x, 23)
  | .discardTuning x => some (x, 24)
  | .setTime x _ => some (x, 25)
  | .setRights x _ => some (x, 26)
  | .readTime x => some (x, 27)
  | .readCauses x => some (x, 28)
  | .ackCause x _ _ => some (x, 29)
  | .setCauseMask x _ _ => some (x, 30)
  | .status x => some (x, 31)
  | .resumePort x => some (x, 32)
  | .portReset x => some (x, 33)
  | .unknownRequestKind _ _ _ => none
  | .powerOn | .referenceLoss | .refclkQualified | .ppsEdge
  | .transactionStart _ | .transactionWithoutRequest _ _ | .frameError _ _ _ | .submitBlockGrant
  | .submitReportGrant | .eligibilityLossNotice | .zoneFlushedGrant | .attachGrant
  | .detachGrant | .fetchEpochGrant | .fetchPageGrant | .ackEpochGrant
  | .readStationGrant | .convertGrant | .startRingGrant | .networkResetGrant
  | .quiesceEndApplyGrant | .releaseStationGrant | .startSweepGrant | .checkinMiss
  | .quiesceGrant | .quiesceHoldExpiry | .boundaryEvent | .recordEndEvent _
  | .zoneDeadlineExpiry _ _ | .groupStall _ | .intervalDeadline | .pulseCountReached
  | .silenceExpiry _ | .holdExpiry _ | .retimeStart | .retimeStep
  | .retimeFinalStep | .counterAdvance => none

/-- Whether so many bytes hold a request frame with a body of so many bytes: header, body and CRC (12.2). -/
def holdsFrame (clocked bodyLength : Nat) : Bool := decide (bodyLength + 5 ≤ clocked)

/-- Whether an item type is one that the catalogue does not have (Table 12-3). -/
def unknownItem (t : Byte) : Bool := t != 1 && t != 2 && t != 3 && t != 4

/-- Whether a staged item is spelled as its type says: the item of unknown type has no known one. -/
def RawItem.wf : RawItem → Bool
  | .unknown t => unknownItem t
  | .addStation _ _ _ _ _ | .removeStation _ | .setStation _ _ _ _ | .setZone _ _ _ _ _ _ => true

/-- Whether a frame error is one: a truncated frame has a byte and is shorter than the longest frame, a corrupt one is at least a header and a CRC (12.2, R161). -/
def FrameFault.fits (clocked : Nat) : FrameFault → Bool
  | .truncated => decide (0 < clocked) && decide (clocked < 260)
  | .corrupt => decide (5 ≤ clocked)

/-- Whether the operands of a command beyond its transfer are ones that it can carry. -/
def Instr.operandsFit : Instr → Bool
  | .unknownRequestKind x kind n =>
    Machine.requestLength kind.toNat != some n.toNat && holdsFrame x.clocked n.toNat
  | .frameError _ clocked f => f.fits clocked
  | .stageShape _ i => i.wf
  | _ => true

/-- A well-formed command. -/
def Instr.wf (i : Instr) : Bool :=
  i.operandsFit && match i.request with
    | some (x, k) => holdsFrame x.clocked ((Machine.requestLength k).getD 0)
    | none => true

end Sys2Proof
end

