-- ==== Sys2Proof/Decode.lean ====
section
/-! DEFINITION. Words and frames. No row of the opcode table gives bits, so no table word spells a command; what spells a request is its frame (12.2, Table 12-3), and this file reads one (R161, R162) and writes one. -/

namespace Sys2Proof

/-- The command that a table word spells: none, since no row of the table gives its bits (log 25). -/
def decodeTableWord (_nbits _w : Nat) : Option Instr := none

/-! ## Numbers of several bytes, most significant byte first (R176) -/

/-- The bytes of a 16-bit number. -/
def bytes16 (v : BitVec 16) : List Byte := [v.extractLsb' 8 8, v.extractLsb' 0 8]

/-- The bytes of a 32-bit number. -/
def bytes32 (v : BitVec 32) : List Byte :=
  [v.extractLsb' 24 8, v.extractLsb' 16 8, v.extractLsb' 8 8, v.extractLsb' 0 8]

/-- The bytes of a 56-bit number. -/
def bytes56 (v : BitVec 56) : List Byte :=
  [v.extractLsb' 48 8, v.extractLsb' 40 8, v.extractLsb' 32 8, v.extractLsb' 24 8,
    v.extractLsb' 16 8, v.extractLsb' 8 8, v.extractLsb' 0 8]

/-- The 16-bit number of two bytes. -/
def join16 (a b : Byte) : BitVec 16 := a ++ b

/-- The 32-bit number of four bytes. -/
def join32 (a b c d : Byte) : BitVec 32 := join16 a b ++ join16 c d

/-- The 56-bit number of seven bytes. -/
def join56 (a b c d e f g : Byte) : BitVec 56 := join32 a b c d ++ (join16 e f ++ g)

/-! ## Reading a body (Table 12-3) -/

/-- A request without a body. -/
def readNone (c : Instr) : List Byte → Option Instr
  | [] => some c
  | _ => none

/-- A request with a body of one byte. -/
def readByte (c : Byte → Instr) : List Byte → Option Instr
  | [a] => some (c a)
  | _ => none

/-- A request with a body of two separate bytes. -/
def readTwo (c : Byte → Byte → Instr) : List Byte → Option Instr
  | [a, b] => some (c a b)
  | _ => none

/-- A request with one field of 16 bits. -/
def readWord (c : BitVec 16 → Instr) : List Byte → Option Instr
  | [a, b] => some (c (join16 a b))
  | _ => none

/-- A request with a byte and a 32-bit number. -/
def readByteLong (c : Byte → BitVec 32 → Instr) : List Byte → Option Instr
  | [a, b1, b2, b3, b4] => some (c a (join32 b1 b2 b3 b4))
  | _ => none

/-- A request with a byte and a time. -/
def readByteTime (c : Byte → BitVec 56 → Instr) : List Byte → Option Instr
  | [a, t1, t2, t3, t4, t5, t6, t7] => some (c a (join56 t1 t2 t3 t4 t5 t6 t7))
  | _ => none

/-- A START_RING. -/
def readStartRing (x : Xfer) : List Byte → Option Instr
  | [t1, t2, t3, t4, t5, t6, t7, l] => some (.startRing x (join56 t1 t2 t3 t4 t5 t6 t7) l)
  | _ => none

/-- A SET_TIME. -/
def readSetTime (x : Xfer) : List Byte → Option Instr
  | [t1, t2, t3, t4, t5, t6, t7] => some (.setTime x (join56 t1 t2 t3 t4 t5 t6 t7))
  | _ => none

/-- A FETCH_PAGE. -/
def readFetchPage (x : Xfer) : List Byte → Option Instr
  | [g, e1, e2, e3, e4, p1, p2] => some (.fetchPage x g (join32 e1 e2 e3 e4) (join16 p1 p2))
  | _ => none

/-- A SUBMIT_BLOCK. -/
def readSubmitBlock (x : Xfer) : List Byte → Option Instr
  | [k, q1, q2, t1, t2, t3, t4, t5, t6, t7, n1, n2, r, c, h1, h2, h3, h4] =>
    some (.submitBlock x { slot := k, seq := join16 q1 q2, start := join56 t1 t2 t3 t4 t5 t6 t7,
                           samples := join16 n1 n2, rate := r, channels := c,
                           handle := join32 h1 h2 h3 h4 })
  | _ => none

/-- A SUBMIT_REPORT. -/
def readSubmitReport (x : Xfer) : List Byte → Option Instr
  | [k, t1, t2, t3, t4, t5, t6, t7, n1, n2, n3, n4, n5, n6, n7, l] =>
    some (.submitReport x { slot := k, ts := join56 t1 t2 t3 t4 t5 t6 t7,
                            tn := join56 n1 n2 n3 n4 n5 n6 n7, lock := l })
  | _ => none

/-- A SET_RIGHTS. -/
def readSetRights (x : Xfer) : List Byte → Option Instr
  | [p, r, g, c, f, v] =>
    some (.setRights x { port := p, rights := r, subscriptions := g, credit := c, framePolicy := f,
                         violationPolicy := v })
  | _ => none

/-- The item of a STAGE_SHAPE by its type byte; the spare bytes are not read (R176). -/
def readItem (t a b c d e f g : Byte) : RawItem :=
  if t = 1 then .addStation a (join16 b c) d e f
  else if t = 2 then .removeStation a
  else if t = 3 then .setStation a b c d
  else if t = 4 then .setZone a b c d (join16 e f) g
  else .unknown t

/-- A STAGE_SHAPE. -/
def readStageShape (x : Xfer) : List Byte → Option Instr
  | [t, a, b, c, d, e, f, g] => some (.stageShape x (readItem t a b c d e f g))
  | _ => none

/-- The request of a kind with a body; none for a kind that the catalogue does not have and for a body of another length. -/
def readBody (x : Xfer) (kind : Byte) (body : List Byte) : Option Instr :=
  match kind.toNat with
  | 0 => readNone (.noRequest x) body
  | 1 => readSubmitBlock x body
  | 2 => readSubmitReport x body
  | 3 => readByteTime (.zoneFlushed x) body
  | 4 => readByte (.attach x) body
  | 5 => readByte (.detach x) body
  | 6 => readByte (.fetchEpoch x) body
  | 7 => readFetchPage x body
  | 8 => readByteLong (.ackEpoch x) body
  | 9 => readByte (.readStation x) body
  | 10 => readByteTime (.convert x) body
  | 11 => readStartRing x body
  | 12 => readNone (.networkReset x) body
  | 13 => readNone (.quiesceEndApply x) body
  | 14 => readByte (.releaseStation x) body
  | 15 => readNone (.startSweep x) body
  | 16 => readWord (.claimSupervisor x) body
  | 17 => readNone (.releaseSupervisor x) body
  | 18 => readWord (.checkIn x) body
  | 19 => readByte (.quiesceRequest x) body
  | 20 => readNone (.quiesceEndDiscard x) body
  | 21 => readStageShape x body
  | 22 => readByteLong (.stageTuning x) body
  | 23 => readNone (.commitTuning x) body
  | 24 => readNone (.discardTuning x) body
  | 25 => readSetTime x body
  | 26 => readSetRights x body
  | 27 => readNone (.readTime x) body
  | 28 => readNone (.readCauses x) body
  | 29 => readTwo (.ackCause x) body
  | 30 => readTwo (.setCauseMask x) body
  | 31 => readNone (.status x) body
  | 32 => readNone (.resumePort x) body
  | 33 => readNone (.portReset x) body
  | _ => none

/-! ## Reading a transaction (R159, R161, R162) -/

/-- The command of a frame whose CRC matches: the request, or the refusal of an unknown kind or a wrong body length (R162). -/
def readRequest (x : Xfer) (kind n : Byte) (body : List Byte) : Instr :=
  (readBody x kind body).getD (.unknownRequestKind x kind n)

/-- The command that the release of select is, from the bytes clocked in on a port (R159, R161, R162): no byte, a truncated frame, a corrupt frame, or a frame that passes; the bytes after its CRC are ignored. -/
def frameCommand (p : PortId) (bytes : List Byte) : Instr :=
  match bytes with
  | [] => .transactionWithoutRequest p 0
  | kind :: tag :: n :: rest =>
    if rest.length < n.toNat + 2 then .frameError p bytes.length .truncated
    else
      let body := rest.take n.toNat
      if (rest.drop n.toNat).take 2 = bytes16 (Machine.crc16 (kind :: tag :: n :: body)) then
        readRequest { port := p, tag := tag, clocked := bytes.length } kind n body
      else .frameError p bytes.length .corrupt
  | _ => .frameError p bytes.length .truncated

/-! ## Writing a frame (12.2, Table 12-3) -/

/-- The body of a STAGE_SHAPE, its spare bytes 0. -/
def RawItem.body : RawItem → List Byte
  | .addStation k code z d a => [1, k] ++ bytes16 code ++ [z, d, a, 0]
  | .removeStation k => [2, k, 0, 0, 0, 0, 0, 0]
  | .setStation k z d a => [3, k, z, d, a, 0, 0, 0]
  | .setZone z m b e cap h => [4, z, m, b, e] ++ bytes16 cap ++ [h]
  | .unknown t => [t, 0, 0, 0, 0, 0, 0, 0]

/-- The body of a request (Table 12-3). -/
def Instr.body : Instr → List Byte
  | .submitBlock _ b =>
    [b.slot] ++ bytes16 b.seq ++ bytes56 b.start ++ bytes16 b.samples ++ [b.rate, b.channels] ++
      bytes32 b.handle
  | .submitReport _ r => [r.slot] ++ bytes56 r.ts ++ bytes56 r.tn ++ [r.lock]
  | .zoneFlushed _ z t => [z] ++ bytes56 t
  | .attach _ g => [g]
  | .detach _ g => [g]
  | .fetchEpoch _ g => [g]
  | .fetchPage _ g e p => [g] ++ bytes32 e ++ bytes16 p
  | .ackEpoch _ g e => [g] ++ bytes32 e
  | .readStation _ k => [k]
  | .convert _ k t => [k] ++ bytes56 t
  | .startRing _ o l => bytes56 o ++ [l]
  | .releaseStation _ k => [k]
  | .claimSupervisor _ v => bytes16 v
  | .checkIn _ v => bytes16 v
  | .quiesceRequest _ h => [h]
  | .stageShape _ i => i.body
  | .stageTuning _ i v => [i] ++ bytes32 v
  | .setTime _ t => bytes56 t
  | .setRights _ r =>
    [r.port, r.rights, r.subscriptions, r.credit, r.framePolicy, r.violationPolicy]
  | .ackCause _ c n => [c, n]
  | .setCauseMask _ c v => [c, v]
  | _ => []

/-- The header and body of a frame. -/
def frameHead (x : Xfer) (kind : Byte) (body : List Byte) : List Byte :=
  [kind, x.tag, BitVec.ofNat 8 body.length] ++ body

/-- The bytes clocked in: the frame with its CRC, and filler to the transfer's length. -/
def frameBytes (x : Xfer) (kind : Byte) (body : List Byte) : List Byte :=
  let f := frameHead x kind body ++ bytes16 (Machine.crc16 (frameHead x kind body))
  f ++ List.replicate (x.clocked - f.length) 0

/-- The bytes that spell a command of the catalogue; none for a command that is not a request. -/
def Instr.frame (i : Instr) : Option (List Byte) :=
  i.request.map fun e => frameBytes e.1 (BitVec.ofNat 8 e.2) i.body

end Sys2Proof
end

