-- ==== Sys2Proof/Machine/Ring.lean ====
section
/-! DEFINITION. The Epoch Ring Unit's shared operations: stall deadlines (R137), release (R112, R113), retirement (R136), eviction (R97 to R100), opening (R85 to R88), sealing (R109 to R111), and filing (R89 to R95, R106). -/

namespace Sys2Proof.Machine

/-! ## Group sets and stall deadlines -/

/-- The set of groups that are ACTIVE (R113). -/
def activeSet (s : State) : GroupSet :=
  (List.finRange 4).foldl
    (fun m g => if (group g s).state = .active then m ||| (1#4 <<< g.val) else m) 0

/-- The stall deadline that a group has (R137): while it is ACTIVE and the record at its cursor is RELEASED, the later of that record's release time and the group's last-ack, plus the group ack limit; otherwise none. -/
def stallDeadline (gr : Group) (s : State) : Option Nat :=
  if gr.state = .active then
    match gr.cursor.bind (findRecord · s) with
    | some r =>
      if r.isReleased then
        some (holdTime (max (r.releaseTime.getD 0) (gr.lastAck.getD 0) +
          seconds (tuning s).ackLimit : Nat))
      else none
    | none => none
  else none

/-- The stall deadlines of the groups selected set afresh (R137). -/
def refreshStalls (sel : GroupId → Group → Bool) (s : State) : State :=
  { s with groups := imap (fun g gr =>
      if sel g gr then { gr with stall := stallDeadline gr s } else gr) s.groups }

/-! ## Release and retirement -/

/-- The record for epoch n RELEASED at now (R112, R113): the release count up by 1, and the awaiting set the ACTIVE groups. -/
def markReleased (n : Nat) (s : State) : State :=
  updRing (fun r => { r with releaseCount := r.releaseCount + 1 })
    (updRecord n (fun r => { r with
      state := .released, releaseTime := some (now s), awaiting := activeSet s }) s)

/-- Release of the record for epoch n (R112, R113): EPOCH_RELEASED on each port subscribed to a group of its awaiting set, and the stall deadlines of the groups whose cursor is n (R137). -/
def releaseRecord (n : Nat) (s : State) : State :=
  refreshStalls (fun _ gr => gr.cursor == some n)
    (raiseIf (fun p => (rightsOf p s).subscriptions &&& activeSet s != 0) .epochReleased
      (markReleased n s))

/-- The release chain of R112: while the record for base + release count is SEALED, it is released, at most `fuel` times. -/
def releaseChain : Nat → State → State
  | 0, s => s
  | fuel + 1, s =>
    match (releaseNext s).bind (findRecord · s) with
    | some r => if r.state = .sealed then releaseChain fuel (releaseRecord r.epoch s) else s
    | none => s

/-- The release chain over the whole ring. -/
def releaseAll (s : State) : State := releaseChain s.ring.records.length s

/-- The oldest record removed and its blocks freed in list order (R100, R136). -/
def removeOldest (s : State) : State :=
  match s.ring.records with
  | [] => s
  | r :: rest => freeBlocks r.blocks (updRing (fun x => { x with records := rest }) s)

/-- Retirement (R136): while the oldest record is RELEASED with an empty awaiting set and a newer record stands above it, it is removed, at most `fuel` times. -/
def retireChain : Nat → State → State
  | 0, s => s
  | fuel + 1, s =>
    match s.ring.records with
    | r :: _ :: _ =>
      if r.isReleased && r.awaiting == 0 then retireChain fuel (removeOldest s) else s
    | _ => s

/-- Retirement over the whole ring. -/
def retire (s : State) : State := retireChain s.ring.records.length s

/-! ## Eviction (R97 to R100) -/

/-- A WAITING entry given a status; any other entry stays (R84). -/
def Entry.giveUp (x : Status) (e : Entry) : Entry :=
  if e.status = .waiting then { e with status := x } else e

/-- A pending deadline abandoned at a seal (R105, R110): it becomes absent, and its extension total stays (DESIGN CHOICE, log 31). -/
def ZoneWait.abandon (z : ZoneWait) : ZoneWait :=
  match z.deadline with
  | .pending _ => { z with deadline := .absent }
  | _ => z

/-- The record sealed with a reason at a time; its pending deadlines are abandoned (R110). -/
def Record.seal (reason : SealReason) (t : Nat) (r : Record) : Record :=
  { r with state := .sealed, reason := some reason, sealTime := some t,
           zones := imap (fun _ z => z.abandon) r.zones }

/-- A forced seal: every WAITING entry becomes ABSENT_FORCED (R98). -/
def Record.forceSeal (t : Nat) (r : Record) : Record :=
  Record.seal .forced t { r with entries := imap (fun _ e => e.giveUp .absentForced) r.entries }

/-- The groups of a set overrun by the eviction of epoch n (R99): the cursor becomes n + 1 and GROUP_OVERRUN is raised on the ports subscribed to each, once for each group. -/
def overrun (set : GroupSet) (n : Nat) (s : State) : State :=
  (List.finRange 4).foldl (fun s g =>
    if set.getLsbD g.val then
      raiseIf (fun p => (rightsOf p s).subscriptions.getLsbD g.val) .groupOverrun
        (updGroup g (fun gr => { gr with cursor := some (n + 1) }) s)
    else s) s

/-- The oldest record driven out according to its state (R98 to R100): sealed FORCED if OPEN, released without EPOCH_RELEASED if not RELEASED, its awaiting groups overrun, retired and its blocks freed; then the SEALED records directly above a release are released in order, and the stall deadlines of the overrun groups, whose cursors have moved, are set afresh (R137). -/
def evictOldest (s : State) : State :=
  match s.ring.records with
  | [] => s
  | r :: _ =>
    let s1 := if r.isOpen then
        { updRecord r.epoch (Record.forceSeal (now s)) s with sealMade := true }
      else s
    let s2 := if r.isReleased then s1 else markReleased r.epoch s1
    let await := ((findRecord r.epoch s2).map (·.awaiting)).getD 0
    let s3 := removeOldest (overrun await r.epoch s2)
    let s4 := if r.isReleased then s3 else releaseAll s3
    refreshStalls (fun g _ => await.getLsbD g.val) s4

/-! ## Opening (R85 to R88) -/

/-- A station's entry in a newly opened record (R85): the count and gap mark of the filed blocks that overlap the epoch, and the status by eligibility and coverage. -/
def openedEntry (n : Nat) (s : State) (k : Slot) : Entry :=
  let mine := (filedBlocks s).filter fun b => decide (b.slot = k) && s.ring.blockOverlaps b n
  let gap := mine.any fun b => b.flags.marksGap
  { status := if eligible k s then
        if covers k n s then passedStatus gap else .waiting
      else .notExpected
    gap := gap
    count := min mine.length 255 }

/-- The record for epoch n as it is opened (Table 5-1, R85). -/
def openedRecord (n : Nat) (s : State) : Record :=
  { epoch := n, start := s.ring.epochStart n, state := .opened, reason := none,
    sealTime := none, releaseTime := none, ended := false,
    entries := Vector.ofFn (openedEntry n s),
    zones := Vector.ofFn fun _ => { deadline := .absent, extension := 0 },
    blocks := [], late := 0, deferred := false, awaiting := 0 }

/-- The boundary deadline when the newest record is that of epoch n (R86, R88). -/
def boundaryAfter (n : Nat) (s : State) : Option Nat :=
  if n < Config.epochMax then some (s.ring.epochEnd n) else none

/-- The opening of the record for epoch n (R85): room is made by eviction when the ring holds 48 records, the record is appended, the boundary deadline moves (R86), and retirement is applied (R136). A record that the eviction releases with an empty awaiting set retires after the new record is filled, its blocks still counted there (DEDUCED, log 14). -/
def openRecord (n : Nat) (s : State) : State :=
  let s1 := if Config.ringRecords ≤ s.ring.records.length then evictOldest s else s
  retire (updRing (fun r => { r with records := r.records ++ [openedRecord n s1],
                                     boundary := boundaryAfter n s1 }) s1)

/-- The opening of the epoch above the newest record; none above epoch 4294967295 (R88). -/
def openNext (s : State) : State :=
  match newest s with
  | some r => if r.epoch < Config.epochMax then openRecord (r.epoch + 1) s else s
  | none => s

/-- So many openings above the newest record, in ascending order (R86, R87). -/
def openMany : Nat → State → State
  | 0, s => s
  | k + 1, s => openMany k (openNext s)

/-- Every epoch above the newest record up to e opened (R86, R87). -/
def openUpTo (e : Nat) (s : State) : State :=
  match newest s with
  | some r => openMany (e - r.epoch) s
  | none => s

/-- Whether an epoch above the newest record may be opened on demand (R87, R88). -/
def openable (e : Nat) (s : State) : Bool :=
  decide (e ≤ Config.epochMax) && decide (s.ring.epochStart e ≤ futureLimit s)

/-! ## Sealing (R109 to R111) -/

/-- The terms of the seal condition other than the third: the end event has occurred, no station is WAITING, and the record is not that of epoch 4294967295 (R109). -/
def Record.readyToSeal (r : Record) : Bool :=
  r.isOpen && r.ended && (r.entries.toList.all fun e => e.status != .waiting) &&
    r.epoch != Config.epochMax

/-- Whether a station whose status in the record is PASSED or PASSED_GAP is RETIMING (R109). -/
def heldByRetime (r : Record) (s : State) : Bool :=
  (List.finRange 64).any fun k => r.entries[k].status.isPassed && (station k s).retiming

/-- The reason of a seal under R109: TIMED when an entry is ABSENT_TIMEOUT or ABSENT_FLUSHED, otherwise COMPLETE (R110). -/
def Record.sealReason (r : Record) : SealReason :=
  if r.entries.toList.any fun e => e.status == .absentTimeout || e.status == .absentFlushed
  then .timed else .complete

/-- Whether a test of the seal condition seals the record. -/
def sealsNow (r : Record) (s : State) : Bool := r.readyToSeal && !heldByRetime r s

/-- One record as the test of R109 leaves it: sealed, deferred (R111), or unchanged. -/
def Record.afterSealTest (s : State) (r : Record) : Record :=
  if r.readyToSeal then
    if heldByRetime r s then { r with deferred := true }
    else Record.seal r.sealReason (now s) r
  else r

/-- The test of the seal condition over the records selected (R109 to R111); when it seals any, the releases of R112 and the retirement of R136 follow. -/
def sealTest (sel : Record → Bool) (s : State) : State :=
  let s1 := updRecords (fun r => if sel r then r.afterSealTest s else r) s
  if s.ring.records.any fun r => sel r && sealsNow r s then
    retire (releaseAll { s1 with sealMade := true })
  else s1

/-- The seal test of the records that an event changed, given the records before it. -/
def sealChanged (before : List Record) (s : State) : State :=
  sealTest (fun r => decide (r ∉ before)) s

/-! ## Filing (R89 to R95, R106) -/

/-- The record chosen to receive a block, with the flags that the choice adds (R89). -/
structure Target where
  epoch : Nat
  late : Bool
  misplaced : Bool
deriving DecidableEq, Repr

/-- Carrying forward (R90): the oldest OPEN record, the epoch above the newest opened first when none is OPEN. -/
def carryTarget (s : State) : State × Option Target :=
  let s1 := if (oldestOpen s).isSome then s else openNext s
  (s1, (oldestOpen s1).map fun n => { epoch := n, late := true, misplaced := false })

/-- The newest record, the epoch above it opened first when it is not OPEN (R91). -/
def misplacedTarget (s : State) : State × Option Target :=
  let s1 := if ((newest s).map Record.isOpen).getD false then s else openNext s
  (s1, (newest s1).map fun r => { epoch := r.epoch, late := false, misplaced := true })

/-- The record itself when it is OPEN, otherwise carrying forward (R89). -/
def ownTarget (e : Nat) (s : State) : State × Option Target :=
  if ((findRecord e s).map Record.isOpen).getD false then
    (s, some { epoch := e, late := false, misplaced := false })
  else carryTarget s

/-- The choice of the receiving record from the epoch of a network start (R89). -/
def chooseTarget (netStart : Nat) (s : State) : State × Option Target :=
  match s.ring.epochOf netStart, newest s with
  | some e, some r =>
    if e ≤ r.epoch then ownTarget e s
    else if openable e s then
      (openUpTo e s, some { epoch := e, late := false, misplaced := false })
    else misplacedTarget s
  | _, _ => carryTarget s

/-- An entry counted once more, up to 255 (R93). -/
def Entry.countUp (e : Entry) : Entry := { e with count := min (e.count + 1) 255 }

/-- An entry with its gap mark set; PASSED becomes PASSED_GAP (R93, R95). -/
def Entry.markGap (e : Entry) : Entry :=
  { e with gap := true, status := if e.status = .passed then .passedGap else e.status }

/-- The deadline of a zone in a record when the table entry gives one (R103): the end plus the budget, the lesser of budget and cap with the extension, or the cap; none for NO_WAIT. -/
def ZoneEntry.deadlineFrom (z : ZoneEntry) (recordEnd extension : Nat) : Option Nat :=
  match z.mode with
  | .fixed => some (holdTime (recordEnd + seconds z.budget : Nat))
  | .adaptive =>
    some (holdTime (min (recordEnd + seconds (min z.budget z.cap) + seconds extension)
      (recordEnd + seconds z.cap) : Nat))
  | .signalled => some (holdTime (recordEnd + seconds z.cap : Nat))
  | .noWait => none

/-- An ADAPTIVE extension (R106): the total grows by the step, held at 3600 s, and the deadline follows it, unless the deadline stands at the cap already (log 17). -/
def ZoneWait.extend (z : ZoneEntry) (recordEnd : Nat) (w : ZoneWait) : ZoneWait :=
  match w.deadline with
  | .pending t =>
    if t < holdTime (recordEnd + seconds z.cap : Nat) then
      let total := min (w.extension + z.extension) 3600
      { deadline := .pending ((z.deadlineFrom recordEnd total).getD t), extension := total }
    else w
  | _ => w

/-- What a filing of block b of station k does to one record's list, entries and deadline (R92, R93, R95, R106): the record of the target epoch takes the block; every OPEN record that is the target or that the block overlaps counts it, takes its gap mark where it overlaps, and extends a pending ADAPTIVE deadline when the count rose after the end event. -/
def fileInRecord (ring : Ring) (z : ZoneId) (ze : ZoneEntry) (i : Nat) (b : Block) (t : Target)
    (r : Record) : Record :=
  if r.isOpen then
    let mine := decide (r.epoch = t.epoch)
    let reaches := ring.blockOverlaps b r.epoch
    if mine || reaches then
      let e := r.entries[b.slot]
      let e1 := e.countUp
      let e2 := if reaches && b.flags.marksGap then e1.markGap else e1
      let extends_ := r.ended && ze.mode == .adaptive && decide (e.count < e1.count)
      { r with
        blocks := if mine then r.blocks ++ [i] else r.blocks
        late := if mine && t.late then r.late + 1 else r.late
        entries := put r.entries b.slot e2
        zones := if extends_ then put r.zones z (r.zones[z].extend ze (ring.epochEnd r.epoch))
                 else r.zones }
    else r
  else r

/-- The passing test of one record (R94): where the station is WAITING in an OPEN record that its delivered-until covers, it becomes PASSED or PASSED_GAP. -/
def passRecord (k : Slot) (s : State) (r : Record) : Record :=
  if r.isOpen && r.entries[k].status == .waiting && covers k r.epoch s then
    { r with entries := put r.entries k { r.entries[k] with status := passedStatus r.entries[k].gap } }
  else r

/-- The block as a filing leaves it: the flags of the choice added and its place set (R89). -/
def Block.filedAt (t : Target) (b : Block) : Block :=
  { b with
    place := .filed t.epoch
    flags := { b.flags with late := b.flags.late || t.late
                            misplaced := b.flags.misplaced || t.misplaced } }

/-- The filing of a delivered block (R89 to R95, R106), with the seal test and the releases that follow it (R109, log 14); the second component is the block as it was filed. A ring without a record takes no block, which no reachable state meets (R80, log 21). -/
def fileBlock (i : Nat) (b : Block) (s : State) : State × Block :=
  match chooseTarget (b.netStart.getD 0) s with
  | (s1, none) => (s1, b)
  | (s1, some t) =>
    let b1 := b.filedAt t
    let z := (station b.slot s1).clk.zone
    let s2 := updBlock i (fun _ => b1) s1
    let s3 := updRecords (fileInRecord s2.ring z (zoneEntry z s2) i b1 t) s2
    let s4 := updRecords (passRecord b.slot s3) s3
    (sealChanged s1.ring.records s4, b1)

end Sys2Proof.Machine
end

