-- ==== Sys2Proof/Machine/Role.lean ====
section
/-! DEFINITION. The Supervision Unit's shared operations: how the role ends (R141, R145), check-in errors and windows (R142, R143, R145), the grant of a quiesce (R147), and the taking of a committed tuning set with what it sets off (R114, R154). -/

namespace Sys2Proof.Machine

/-! ## The end of the role -/

/-- Intake running again (R148, R150, R141, R145): RUNNING, the staged shape set empty, the hold deadline absent; the silence clock runs while the state is RUNNING (R50). -/
def Supervision.endQuiesce (v : Supervision) : Supervision :=
  { v with quiesce := .running, staged := [] }

/-- The role FREE (R141, R145): challenge and window absent, a quiesce ended, an uncommitted staged tuning copy discarded; the error counter, the committed set and the tables stay. -/
def Supervision.endRole (v : Supervision) : Supervision :=
  let w := match v.quiesce with
    | .running => v
    | .quiescing _ | .quiesced _ => v.endQuiesce
  { w with role := none, stagedTuning := none }

/-- The role ends by release or port reset (R141): SUPERVISOR_RELEASED on all ports. -/
def releaseRole (s : State) : State := raiseAll .supervisorReleased (updSup (·.endRole) s)

/-- The role lapses (R145): SUPERVISOR_LAPSED on all ports. -/
def lapseRole (s : State) : State := raiseAll .supervisorLapsed (updSup (·.endRole) s)

/-- The lapse of R145 when a held role's error counter has reached the threshold of the active set. -/
def lapseIfDue (s : State) : State :=
  if s.sup.role.isSome && decide ((tuning s).checkinThreshold ≤ s.sup.errors) then lapseRole s
  else s

/-! ## Check-in -/

/-- The window length W of the active set (R142). -/
def windowLength (s : State) : Nat := (tuning s).checkinPeriod * 50000

/-- A new check-in window starting now (R142). -/
def Holder.newWindow (t w : Nat) (h : Holder) : Holder :=
  { h with windowStart := t, windowLength := w }

/-- A new check-in window for the holder (R142). -/
def startWindow (s : State) : State :=
  updSup (fun v => { v with role := v.role.map (Holder.newWindow (now s) (windowLength s)) }) s

/-- One step of the Galois shift generator with feedback 0xB400 (R143). -/
def advanceChallenge (c : BitVec 16) : BitVec 16 :=
  if c.getLsbD 0 then (c >>> 1) ^^^ 0xB400#16 else c >>> 1

/-- The two good answers to a challenge (R143): the challenge plus the low 16 bits of the release count, or of the release count - 1. -/
def goodResponse (challenge response : BitVec 16) (releaseCount : Nat) : Bool :=
  response == challenge + BitVec.ofNat 16 releaseCount ||
    response == challenge + BitVec.ofInt 16 ((releaseCount : Int) - 1)

/-- One check-in error (R145): the error counter up by 1 and CHECKIN_ERROR on the holder's port. The lapse it may cause is `lapseIfDue`. -/
def countError (s : State) : State :=
  raiseSup .checkinError (updSup (fun v => { v with errors := v.errors + 1 }) s)

/-! ## The grant of a quiesce (R147) -/

/-- Whether a SUBMIT-class request is pending in any port's queue (R147). -/
def submitPending (s : State) : Bool :=
  s.ports.toList.any fun p => p.queue.any fun q => reqClass q.req == .submit

/-- Whether a re-time is queued or running (R147). -/
def retimeBusy (s : State) : Bool := !s.retime.queue.isEmpty || s.retime.running.isSome

/-- The grant of R147, made in the event that makes both its conditions hold: QUIESCED with the hold deadline, and QUIESCE_GRANTED on the holder's port. -/
def tryQuiesceGrant (s : State) : State :=
  match s.sup.quiesce with
  | .quiescing hold =>
    if submitPending s || retimeBusy s then s
    else raiseSup .quiesceGranted
      (updSup (fun v => { v with quiesce := .quiesced (holdTime (now s + seconds hold : Nat)) }) s)
  | _ => s

/-! ## The taking of a committed tuning set (R114, R154) -/

/-- The sweep trigger restarted when the trigger or N of the new set differs (R43). -/
def Sweep.restart (t : Nat) (old new : Tuning) (w : Sweep) : Sweep :=
  if old.trigger = new.trigger ∧ old.sweepN = new.sweepN then w
  else
    { w with
      pulses := 0
      deadline := if new.trigger = .interval then some (holdTime (t + seconds new.sweepN : Nat))
                  else none }

/-- The committed set becomes the active set (R114, R154): TUNING_TAKEN on the supervisor port, the sweep trigger restarted (R43), every group's stall deadline set afresh (R137), and the role lapsed when the new threshold is at or below the error counter (R145). Silence timers are judged against the active set at their own event (R52). -/
def takeTuning (s : State) : State :=
  match s.sup.committed with
  | none => s
  | some t =>
    let s1 := updSup (fun v => { v with active := t, committed := none }) s
    let s2 := raiseSup .tuningTaken s1
    let s3 := { s2 with sweep := s2.sweep.restart (now s) (tuning s) t }
    lapseIfDue (refreshStalls (fun _ _ => true) s3)

/-- The end of an event in which records may have been sealed (R114): a committed set is taken when a seal was made, after every seal and release of the event, and the latch is cleared (log 7, 14). -/
def finishSeals (s : State) : State :=
  if s.sealMade then takeTuning { s with sealMade := false } else s

end Sys2Proof.Machine
end

