-- ==== Sys2Proof/Machine/Ports.lean ====
section
/-! DEFINITION. The client ports: the release of select (R159), the intake checks in their order (R161 to R165), and the commands of transactions and of frames that are no request. -/

namespace Sys2Proof.Machine

/-! ## Outbound places -/

/-- No free place that is not reserved (R162). -/
def PortState.full (p : PortState) : Bool :=
  decide (Config.outboundPlaces ≤ p.out.length + p.reservations)

/-- A frame queued into a free unreserved place (R161, R162). -/
def PortState.queueFree (f : OutFrame) (p : PortState) : PortState := { p with out := p.out ++ [f] }

/-- A reply queued into the place reserved for it (R162). -/
def PortState.queueReserved (f : OutFrame) (p : PortState) : PortState :=
  { p with out := p.out ++ [f], reservations := p.reservations - 1 }

/-- The dropped count up by 1, saturating (R161, R162). -/
def PortState.drop (p : PortState) : PortState := { p with dropped := min (p.dropped + 1) 255 }

/-- A reply into its reserved place (R162, R165). -/
def reply (p : PortId) (tag kind : Byte) (code : Code) (data : List Field) (s : State) : State :=
  updPort p (·.queueReserved (.reply tag kind code data)) s

/-- What a request is answered with, and the state its effect leaves. -/
structure Answer where
  st : State
  code : Code
  data : List Field

/-- The answer of a refusal without effect. -/
def refuse (code : Code) (s : State) (data : List Field := []) : Answer :=
  { st := s, code := code, data := data }

/-! ## The release of select (R159) -/

/-- The first part of the release (R159): a queued frame clocked out entire leaves the queue, and the transaction is over; what CPn_SDO carried in it, the filler after the frame included, is kept (R177, log 27). Without a transaction in progress nothing leaves (log 6). -/
def PortState.endTxn (clocked : Nat) (p : PortState) : PortState :=
  match p.txn with
  | some t =>
    { p with txn := none
             sent := t.sdo clocked
             out := if t.queued && decide (t.bytes.length ≤ clocked) then p.out.tail else p.out }
  | none => p

/-- The first part of the release on a port (R159). -/
def endTransaction (p : PortId) (clocked : Nat) (s : State) : State :=
  updPort p (·.endTxn clocked) s

/-! ## Intake (R162 to R165) -/

/-- The place in the outbound queue (R162): the HALTED refusal unless the request is exempt, the discard when no place is free unless it is exempt, and otherwise a place reserved and intake going on. -/
def takePlace (x : Xfer) (kind : Byte) (duringHalt whenFull : Bool) (go : State → State)
    (s : State) : State :=
  let p := port x.port s
  if p.halted && !duringHalt then
    if p.full then updPort x.port (·.drop) s
    else updPort x.port (·.queueFree (.reply x.tag kind .halted [])) s
  else if p.full && !whenFull then updPort x.port (·.drop) s
  else go (updPort x.port (fun p => { p with reservations := p.reservations + 1 }) s)

/-- The credit check of a request for the service path (R163). -/
def checkCredit (x : Xfer) (kind : Byte) (go : State → State) (s : State) : State :=
  if (rightsOf x.port s).credit ≤ (port x.port s).inFlight then reply x.port x.tag kind .noCredit [] s
  else go s

/-- The check of the right a request needs (R164): without it ACCESS_VIOLATION is raised, and the violation policy decides between DENIED and a DONE without effect. -/
def checkRight (x : Xfer) (kind : Byte) (need : Need) (go : State → State) (s : State) : State :=
  if (rightsOf x.port s).grants need then go s
  else
    reply x.port x.tag kind (if (rightsOf x.port s).violation = .absorb then .done else .denied) []
      (raiseWithSup x.port .accessViolation s)

/-- A request of the SUBMIT class is refused while the quiesce state is not RUNNING (R164). -/
def checkQuiesce (x : Xfer) (r : ServiceReq) (go : State → State) (s : State) : State :=
  if reqClass r = .submit ∧ s.sup.quiesce ≠ .running then
    reply x.port x.tag (reqKind r) .quiesced [] s
  else go s

/-- A request joins the tail of its port's pending queue and counts in flight (R163, R165). -/
def joinQueue (x : Xfer) (r : ServiceReq) (s : State) : State :=
  updPort x.port (fun p => { p with queue := p.queue ++ [{ tag := x.tag, req := r }],
                                    inFlight := p.inFlight + 1 }) s

/-- The intake of a request for the pending queue (R159, R162 to R165). -/
def intakeService (x : Xfer) (r : ServiceReq) (s : State) : State :=
  takePlace x (reqKind r) false false
    (checkCredit x (reqKind r) (checkRight x (reqKind r) (reqClass r).need
      (checkQuiesce x r (joinQueue x r))))
    (endTransaction x.port x.clocked s)

/-- A CONVERT goes to the urgent slot, or is refused BUSY (R165). -/
def joinUrgent (x : Xfer) (slot : Byte) (t : BitVec 56) (s : State) : State :=
  if (port x.port s).urgent.isSome then reply x.port x.tag 10 .busy [] s
  else updPort x.port (fun p => { p with urgent := some { tag := x.tag, slot := slot, time := t },
                                         inFlight := p.inFlight + 1 }) s

/-- The intake of a CONVERT (R31, R159, R162 to R165). -/
def intakeConvert (x : Xfer) (slot : Byte) (t : BitVec 56) (s : State) : State :=
  takePlace x 10 false false
    (checkCredit x 10 (checkRight x 10 .consume (joinUrgent x slot t)))
    (endTransaction x.port x.clocked s)

/-- A direct request answered by its owner, its reply in the reserved place (R165). -/
def answerDirect (x : Xfer) (kind : Byte) (owner : State → Answer) (s : State) : State :=
  let a := owner s
  reply x.port x.tag kind a.code a.data a.st

/-- The intake of a direct request (R159, R162, R164, R165); `duringHalt` says that a HALTED port takes it (R162). -/
def intakeDirect (x : Xfer) (kind : Byte) (need : Need) (duringHalt : Bool)
    (owner : State → Answer) (s : State) : State :=
  takePlace x kind duringHalt false (checkRight x kind need (answerDirect x kind owner))
    (endTransaction x.port x.clocked s)

/-- A request of the supervisor: refused NOT_SUPERVISOR from a port that does not hold the role when it is answered (R155). -/
def ifSupervisor (p : PortId) (owner : State → Answer) (s : State) : Answer :=
  if isSup p s then owner s else refuse .notSupervisor s

/-! ## The commands of a transaction -/

/-- TRANSACTION_START (R159, R160): the frame to send is chosen and its status header formed. -/
def execTransactionStart (p : PortId) (s : State) : Host.Outcome State Fault Refusal :=
  .next (updPort p (fun ps => { ps with txn := some (beginTxn p s) }) s)

/-- TRANSACTION_WITHOUT_REQUEST (R159): only a frame clocked out entire leaves the queue. -/
def execTransactionWithoutRequest (p : PortId) (clocked : Nat) (s : State) :
    Host.Outcome State Fault Refusal :=
  .next (endTransaction p clocked s)

/-- What the HALT policy adds to a frame error (R161): the first one sets HALTED and queues a halt notice, or counts a drop when no place is free. -/
def PortState.haltOn (f : FrameFault) (p : PortState) : PortState :=
  if p.halted then p
  else if p.full then { p.drop with halted := true }
  else { p.queueFree (.haltNotice f) with halted := true }

/-- FRAME_ERROR (R161). -/
def execFrameError (p : PortId) (clocked : Nat) (f : FrameFault) (s : State) :
    Host.Outcome State Fault Refusal :=
  let s1 := raiseIf (fun q => q == p) .frameError (endTransaction p clocked s)
  .next (if (rightsOf p s1).framePolicy = .halt then updPort p (·.haltOn f) s1 else s1)

/-- Whether a kind code is one that a HALTED port takes: STATUS, RESUME_PORT, PORT_RESET (R162). -/
def takenWhenHalted (kind : Byte) : Bool := kind == 31 || kind == 32 || kind == 33

/-- UNKNOWN_REQUEST_KIND (R162): BAD_REQUEST at intake, naming the kind or body length by 255 (R176). -/
def execUnknownRequestKind (x : Xfer) (kind _bodyLength : Byte) (s : State) :
    Host.Outcome State Fault Refusal :=
  .next (takePlace x kind (takenWhenHalted kind) false
    (reply x.port x.tag kind .badRequest [.num 1 255]) (endTransaction x.port x.clocked s))

/-- NO_REQUEST (R162): a poll takes no place and has no effect beyond the transaction's clocking out. -/
def execNoRequest (x : Xfer) (s : State) : Host.Outcome State Fault Refusal :=
  .next (endTransaction x.port x.clocked s)

end Sys2Proof.Machine
end

