-- ==== Sys2Proof/Machine/Attention.lean ====
section
/-! DEFINITION. The requests that a port and the Attention Unit answer: READ_CAUSES, ACK_CAUSE and SET_CAUSE_MASK (R173 to R175), STATUS and RESUME_PORT (R171), and PORT_RESET (R170). -/

namespace Sys2Proof.Machine

/-- A cause record of a port changed. -/
def updCause (p : PortId) (c : Fin 21) (f : CauseRec → CauseRec) (s : State) : State :=
  updPort p (fun ps => { ps with causes := put ps.causes c (f ps.causes[c]) }) s

/-- The causes pending on a port, by order number with their counts (R174). -/
def PortState.pendingCauses (p : PortState) : List (Nat × Nat) :=
  (List.finRange 21).filterMap fun c =>
    if p.causes[c].pending then some (c.val, p.causes[c].count.toNat) else none

/-- The 21 masks as a reply packs them (R174, R176, log 13); the three spare bits of their third byte are 0 under either packing (DESIGN CHOICE, log 12). -/
def PortState.maskField (p : PortState) : Field :=
  if Config.causeMasksAsMarks then .marks (p.causes.toList.map (·.mask))
  else .flags (p.causes.toList.map (·.mask))

/-- What READ_CAUSES returns (R174). The line's state is 1 while it is asserted (DESIGN CHOICE, log 12). -/
def readCausesData (p : PortState) : List Field :=
  [.num 1 p.pendingCauses.length] ++
    p.pendingCauses.flatMap (fun c => [.num 1 c.1, .num 1 c.2]) ++ [p.maskField, .bit p.attention]

/-- READ_CAUSES (R174). -/
def execReadCauses (x : Xfer) (s : State) : Host.Outcome State Fault Refusal :=
  .next (intakeDirect x 28 .none false
    (fun s => { st := s, code := .done, data := readCausesData (port x.port s) }) s)

/-- ACK_CAUSE as the Attention Unit answers it (R175). -/
def ackCauseOwner (p : PortId) (cause count : Byte) (s : State) : Answer :=
  match causeOf cause with
  | none => refuse .badRequest s [.num 1 0]
  | some c =>
    let rec_ := (port p s).causes[c]
    if !rec_.pending then refuse .wrongState s
    else if rec_.count = count then
      { st := updCause p c (fun r => { r with pending := false }) s, code := .done, data := [] }
    else refuse .staleAck s [.num 1 rec_.count.toNat]

/-- ACK_CAUSE (R175). -/
def execAckCause (x : Xfer) (cause count : Byte) (s : State) : Host.Outcome State Fault Refusal :=
  .next (intakeDirect x 29 .none false (ackCauseOwner x.port cause count) s)

/-- Whether a cause's mask stays enabled: RESET_NOTICE and SUPERVISOR_LAPSED (R173). -/
def unmaskable (c : Fin 21) : Bool :=
  c == Cause.resetNotice.order || c == Cause.supervisorLapsed.order

/-- SET_CAUSE_MASK as the Attention Unit answers it (R173). The cause number is tested before the value, and both before WRONG_STATE (DESIGN CHOICE, log 20). The line in the reply is 1 while it is asserted (DESIGN CHOICE, log 12). -/
def setCauseMaskOwner (p : PortId) (cause value : Byte) (s : State) : Answer :=
  match causeOf cause with
  | none => refuse .badRequest s [.num 1 0]
  | some c =>
    if 1 < value.toNat then refuse .badRequest s [.num 1 1]
    else if value.toNat = 0 ∧ unmaskable c then refuse .wrongState s
    else
      let s1 := updCause p c (fun r => { r with mask := value.toNat == 1 }) s
      { st := s1, code := .done, data := [.bit (port p s1).attention] }

/-- SET_CAUSE_MASK (R173). -/
def execSetCauseMask (x : Xfer) (cause value : Byte) (s : State) :
    Host.Outcome State Fault Refusal :=
  .next (intakeDirect x 30 .none false (setCauseMaskOwner x.port cause value) s)

/-- What STATUS returns (R171). -/
def statusData (p : PortId) (s : State) : List Field :=
  let ps := port p s
  let r := rightsOf p s
  [.bit ps.halted, .num 1 ps.inFlight, .num 1 ps.reservations, .num 1 ps.queue.length,
    .bit ps.overdue, .bit ps.urgent.isSome, .num 1 ps.dropped,
    .flags [r.submit, r.consume, r.supervise], .num 1 r.subscriptions.toNat, .num 1 r.credit,
    .num 1 r.framePolicy.num, .num 1 r.violation.num]

/-- STATUS (R171); its reservations count the one held for its own reply (log 19). -/
def execStatus (x : Xfer) (s : State) : Host.Outcome State Fault Refusal :=
  .next (intakeDirect x 31 .none true
    (fun s => { st := s, code := .done, data := statusData x.port s }) s)

/-- RESUME_PORT as the port answers it (R171). -/
def resumePortOwner (p : PortId) (s : State) : Answer :=
  { st := updPort p (fun ps => { ps with halted := false }) s, code := .done
    data := [.bit (port p s).halted] }

/-- RESUME_PORT (R171). -/
def execResumePort (x : Xfer) (s : State) : Host.Outcome State Fault Refusal :=
  .next (intakeDirect x 32 .none true (resumePortOwner x.port) s)

/-- A port after a port reset (R170, R172): clean, with the reply as the only frame of its outbound queue; what the transaction of the reset itself carried stays as it was sent. -/
def PortState.cleaned (f : OutFrame) (p : PortState) : PortState :=
  { PortState.initial with out := [f], causes := Vector.ofFn fun _ => .clear, txn := p.txn,
                           sent := p.sent }

/-- The effect of a PORT_RESET (R170): the port clean, the role ended if it held it (R141), and a quiesce that waited for the withdrawn requests granted (R147). -/
def resetPort (x : Xfer) (s : State) : State :=
  let s1 := updPort x.port (·.cleaned (.reply x.tag 33 .done [])) s
  tryQuiesceGrant (if isSup x.port s then releaseRole s1 else s1)

/-- PORT_RESET (R170): taken when the port is HALTED and when no place is free (R162). -/
def execPortReset (x : Xfer) (s : State) : Host.Outcome State Fault Refusal :=
  .next (takePlace x 33 true true (resetPort x) (endTransaction x.port x.clocked s))

end Sys2Proof.Machine
end

