-- ==== Sys2Proof/Machine/Scheduler.lean ====
section
/-! DEFINITION. The Request Scheduler: the candidates and the winner of a grant (R166, R167), aging (R168), and how a granted request is answered. A grant command names a request kind; it is the grant of the winner when the winner is of that kind, and no event otherwise (log 2). -/

namespace Sys2Proof.Machine

/-- The winner of a grant: an occupied urgent slot or the head of a pending queue (R166). -/
inductive Winner
  | urgent (p : PortId)
  | head (p : PortId)
deriving DecidableEq, Repr

/-- The weight of a class in the active set (R167). -/
def classWeight (t : Tuning) : ReqClass → Nat
  | .supervisory => t.supervisoryWeight
  | .submit => t.submitWeight
  | .consume => t.consumeWeight

/-- The score of a head (R167): its class weight, the locality bonus when it names the locality slot, and its age, counted at no more than the age max. -/
def headScore (q : Queued) (age : Nat) (s : State) : Nat :=
  let t := tuning s
  let bonus := if s.sched.locality.isSome ∧ reqNames q.req = s.sched.locality then t.localityBonus else 0
  classWeight t (reqClass q.req) + bonus + min age t.ageMax

/-- The score of a port's head, none for an empty queue. -/
def portScore (p : PortId) (s : State) : Option Nat :=
  (port p s).queue.head?.map fun q => headScore q (port p s).age s

/-- The best scored head of a list of ports, the earlier port among equal scores (R166). -/
def bestHead (s : State) : List PortId → Option (PortId × Nat)
  | [] => none
  | p :: l =>
    match portScore p s, bestHead s l with
    | none, b => b
    | some n, none => some (p, n)
    | some n, some (q, m) => if m ≤ n then some (p, n) else some (q, m)

/-- The winner of a grant (R166): an urgent slot, then an overdue head, then the best score, each by the grant order. -/
def winner (s : State) : Option Winner :=
  match s.sched.order.find? fun p => (port p s).urgent.isSome with
  | some p => some (.urgent p)
  | none =>
    match s.sched.order.find? fun p => !(port p s).queue.isEmpty && (port p s).overdue with
    | some p => some (.head p)
    | none => (bestHead s s.sched.order).map fun b => .head b.1

/-- A head that was a candidate and lost (R168): its age grows to the age max, then its guard count to the guard limit, at which it is overdue; an overdue head keeps what it has (log 18). The limit is compared when the count is raised, so a count that a lowered limit has overtaken makes its head overdue at its next raise (DESIGN CHOICE, log 29). -/
def PortState.lose (t : Tuning) (p : PortState) : PortState :=
  if p.queue.isEmpty || p.overdue then p
  else if p.age < t.ageMax then { p with age := min (p.age + t.ageStep) t.ageMax }
  else
    let g := min (p.guards + 1) 15
    { p with guards := g, overdue := decide (t.guardLimit ≤ g) }

/-- A granted head leaves its queue; the next request becomes the head with age 0, guard count 0 and overdue clear (R166). -/
def PortState.popHead (p : PortState) : PortState :=
  { p with queue := p.queue.tail, age := 0, guards := 0, overdue := false }

/-- The grant order with a port moved to its most recent end (R166). -/
def Sched.granted (p : PortId) (names : Option Slot) (c : Sched) : Sched :=
  { order := c.order.filter (· != p) ++ [p], locality := names }

/-- What a grant of a head does to the ports and the scheduler (R166, R168). -/
def grantsHead (p : PortId) (names : Option Slot) (s : State) : State :=
  let t := tuning s
  { s with ports := imap (fun q ps => if q = p then ps.popHead else ps.lose t) s.ports
           sched := s.sched.granted p names }

/-- What a grant of an urgent slot does to the ports and the scheduler (R166, R168): every head loses. -/
def grantsUrgent (p : PortId) (names : Option Slot) (s : State) : State :=
  let t := tuning s
  { s with ports := imap (fun q ps =>
             if q = p then { ps.lose t with urgent := none } else ps.lose t) s.ports
           sched := s.sched.granted p names }

/-- The answer of a granted request (R163): its reply in the reserved place, and the in-flight count down by 1. -/
def answerGrant (p : PortId) (tag kind : Byte) (a : Answer) : State :=
  updPort p (fun ps => { ps with inFlight := ps.inFlight - 1 })
    (reply p tag kind a.code a.data a.st)

/-- The grant of the winning head when it is a request that `sel` selects: the scheduler's part, the owner's effect, and the answer, in one event (R166). -/
def grantHead {α : Type} (sel : ServiceReq → Option α) (owner : PortId → α → State → Answer)
    (s : State) : State :=
  match winner s with
  | some (.head p) =>
    match (port p s).queue with
    | q :: _ =>
      match sel q.req with
      | some a => answerGrant p q.tag (reqKind q.req) (owner p a (grantsHead p (reqNames q.req) s))
      | none => s
    | [] => s
  | _ => s

/-- The grant of the winning urgent slot (R166). -/
def grantUrgent (owner : Urgent → State → Answer) (s : State) : State :=
  match winner s with
  | some (.urgent p) =>
    match (port p s).urgent with
    | some u => answerGrant p u.tag 10 (owner u (grantsUrgent p (slotOf u.slot) s))
    | none => s
  | _ => s

end Sys2Proof.Machine
end

