-- ==== Sys2Proof/Machine/Delivery.lean ====
section
/-! DEFINITION. The Delivery Unit's commands: the group requests at their grants (R128 to R135) and the stall of a group (R137). -/

namespace Sys2Proof.Machine

/-! ## What the group requests share (R128) -/

/-- The fields that every reply to a group request carries after the two tests (R128). -/
def groupFields (g : GroupId) (s : State) : List Field :=
  [.num 1 (group g s).state.num, .optNum 4 (group g s).cursor, .optNum 7 (group g s).lastAck,
    .optNum 4 (releaseNext s)]

/-- The answer to a group request: the group fields as the event leaves them, then what the outcome adds. -/
def groupAnswer (g : GroupId) (code : Code) (more : List Field) (s : State) : Answer :=
  { st := s, code := code, data := groupFields g s ++ more }

/-- The refusals that come before a group request's own rule (R128). -/
def groupRequest (q : PortId) (b : Byte) (needsActive : Bool) (judge : GroupId → State → Answer)
    (s : State) : Answer :=
  match groupOf b with
  | none => refuse .badRequest s [.num 1 0]
  | some g =>
    if (rightsOf q s).subscriptions.getLsbD g.val then
      if needsActive && (group g s).state != .active then groupAnswer g .notAttached [] s
      else judge g s
    else refuse .notSubscribed s

/-- The RELEASED records of the ring, oldest first. -/
def releasedRecords (s : State) : List Record := s.ring.records.filter Record.isReleased

/-- Whether a record awaits a group. -/
def Record.awaits (g : GroupId) (r : Record) : Bool := r.awaiting.getLsbD g.val

/-- The record with a group added to its awaiting set. -/
def Record.addGroup (g : GroupId) (r : Record) : Record :=
  { r with awaiting := r.awaiting ||| (1#4 <<< g.val) }

/-- The record with a group taken out of its awaiting set. -/
def Record.dropGroup (g : GroupId) (r : Record) : Record :=
  { r with awaiting := r.awaiting &&& ~~~(1#4 <<< g.val) }

/-- A group's stall deadline set afresh (R137). -/
def refreshStall (g : GroupId) (s : State) : State := refreshStalls (fun h _ => h == g) s

/-! ## ATTACH and DETACH -/

/-- The cursor of a group that attaches (R130): the oldest RELEASED record, or the next epoch to be released. -/
def attachCursor (s : State) : Option Nat :=
  match (releasedRecords s).head? with
  | some r => some r.epoch
  | none => releaseNext s

/-- A group made ACTIVE (R130). -/
def attachGroup (g : GroupId) (s : State) : State :=
  refreshStall g
    (updGroup g (fun _ => { state := .active, cursor := attachCursor s, lastAck := some (now s),
                            stall := none })
      (updRecords (fun r => if r.isReleased then r.addGroup g else r) s))

/-- ATTACH after the tests of R128 (R130). -/
def judgeAttach (g : GroupId) (s : State) : Answer :=
  if s.ring.state = .stopped then groupAnswer g .ringStopped [] s
  else
    match (group g s).state with
    | .active => groupAnswer g .already [] s
    | .detached | .stalled =>
      groupAnswer g .done [.num 1 (releasedRecords s).length] (attachGroup g s)

/-- ATTACH at its grant (R128, R130). -/
def attachOwner (q : PortId) (b : Byte) (s : State) : Answer := groupRequest q b false judgeAttach s

/-- Selects an ATTACH. -/
def asAttach : ServiceReq → Option Byte
  | .attach g => some g
  | _ => none

/-- ATTACH_GRANT (R130). -/
def execAttachGrant (s : State) : Host.Outcome State Fault Refusal :=
  .next (grantHead asAttach attachOwner s)

/-- DETACH of an ACTIVE group (R131): it leaves every awaiting set, and retirement follows. -/
def judgeDetach (g : GroupId) (s : State) : Answer :=
  let left := (s.ring.records.filter (·.awaits g)).length
  groupAnswer g .done [.num 1 left]
    (retire (updGroup g (fun _ => .detached) (updRecords (·.dropGroup g) s)))

/-- DETACH at its grant (R128, R131). -/
def detachOwner (q : PortId) (b : Byte) (s : State) : Answer := groupRequest q b true judgeDetach s

/-- Selects a DETACH. -/
def asDetach : ServiceReq → Option Byte
  | .detach g => some g
  | _ => none

/-- DETACH_GRANT (R131). -/
def execDetachGrant (s : State) : Host.Outcome State Fault Refusal :=
  .next (grantHead asDetach detachOwner s)

/-! ## FETCH_EPOCH and FETCH_PAGE -/

/-- The number of slots holding each of the ten statuses, in code order (R133). -/
def statusTotals (r : Record) : List Nat :=
  (List.range 10).map fun c => r.entries.toList.countP fun e => e.status.num == c

/-- The epoch summary of a record (R133, 12.4). -/
def epochSummary (r : Record) : List Field :=
  [.num 4 r.epoch, .num 7 r.start, .num 1 ((r.reason.map (·.num)).getD 0), .bit r.deferred,
    .num 7 (r.sealTime.getD 0), .num 7 (r.releaseTime.getD 0),
    .nibbles (r.entries.toList.map (·.status.num)), .marks (r.entries.toList.map (·.gap))] ++
    r.entries.toList.map (fun e => .num 1 e.count) ++ (statusTotals r).map (.num 1 ·) ++
    [.num 2 r.blocks.length, .num 2 r.late, .num 2 ((r.blocks.length + 2) / 3),
      .num 1 r.awaiting.toNat]

/-- The state code of the record at an epoch (Table 12-5): 0 when the epoch is not yet opened. -/
def recordStateCode (r : Option Record) : Nat :=
  match r with
  | some r => r.state.num
  | none => 0

/-- FETCH_EPOCH of an ACTIVE group (R132). -/
def judgeFetchEpoch (g : GroupId) (s : State) : Answer :=
  let r := (group g s).cursor.bind (findRecord · s)
  match r.filter Record.isReleased with
  | some r => groupAnswer g .done (epochSummary r) s
  | none => groupAnswer g .noneReady [.num 1 (recordStateCode r)] s

/-- FETCH_EPOCH at its grant (R128, R132). -/
def fetchEpochOwner (q : PortId) (b : Byte) (s : State) : Answer :=
  groupRequest q b true judgeFetchEpoch s

/-- Selects a FETCH_EPOCH. -/
def asFetchEpoch : ServiceReq → Option Byte
  | .fetchEpoch g => some g
  | _ => none

/-- FETCH_EPOCH_GRANT (R132). -/
def execFetchEpochGrant (s : State) : Host.Outcome State Fault Refusal :=
  .next (grantHead asFetchEpoch fetchEpochOwner s)

/-- A page entry, 35 bytes (12.4, R134). -/
def pageEntry (b : Block) : List Field :=
  [.num 1 b.slot.val, .num 2 b.seq.toNat, .num 7 b.start, .num 2 b.samples, .num 1 b.rate,
    .num 1 b.channels, .num 4 b.handle.toNat, .num 7 (b.netStart.getD 0), .num 7 (b.netEnd.getD 0),
    .num 2 b.generation.toNat, .flags b.flags.list]

/-- The blocks of a page of a record's list (R134): positions 3p to 3p + 2 in filing order. -/
def pageBlocks (page : Nat) (r : Record) (s : State) : List Block :=
  ((r.blocks.drop (3 * page)).take 3).filterMap (block · s)

/-- FETCH_PAGE of an ACTIVE group (R134). -/
def judgeFetchPage (n page : Nat) (g : GroupId) (s : State) : Answer :=
  match (findRecord n s).filter (fun r => r.isReleased && r.awaits g) with
  | none => groupAnswer g .wrongState [] s
  | some r =>
    let bs := pageBlocks page r s
    groupAnswer g .done
      ([.num 2 r.blocks.length, .num 1 bs.length] ++ bs.flatMap pageEntry) s

/-- FETCH_PAGE at its grant (R128, R134). -/
def fetchPageOwner (q : PortId) (b : Byte) (n page : Nat) (s : State) : Answer :=
  groupRequest q b true (judgeFetchPage n page) s

/-- Selects a FETCH_PAGE. -/
def asFetchPage : ServiceReq → Option (Byte × BitVec 32 × BitVec 16)
  | .fetchPage g n p => some (g, n, p)
  | _ => none

/-- FETCH_PAGE_GRANT (R134). -/
def execFetchPageGrant (s : State) : Host.Outcome State Fault Refusal :=
  .next (grantHead asFetchPage
    (fun q a => fetchPageOwner q a.1 a.2.1.toNat a.2.2.toNat) s)

/-! ## ACK_EPOCH -/

/-- The acknowledgement of epoch n, which is the group's cursor and RELEASED (R135), before retirement. -/
def ackEpoch (g : GroupId) (n : Nat) (s : State) : State :=
  refreshStall g
    (updGroup g (fun gr => { gr with cursor := some (n + 1), lastAck := some (now s) })
      (updRecord n (·.dropGroup g) s))

/-- ACK_EPOCH of an ACTIVE group (R135, R136). -/
def judgeAck (n : Nat) (g : GroupId) (s : State) : Answer :=
  if (group g s).cursor ≠ some n then groupAnswer g .outOfOrder [] s
  else
    match (findRecord n s).filter Record.isReleased with
    | none => groupAnswer g .noneReady [] s
    | some _ =>
      let s1 := ackEpoch g n s
      let s2 := retire s1
      groupAnswer g .done [.num 1 (s1.ring.records.length - s2.ring.records.length)] s2

/-- ACK_EPOCH at its grant (R128, R135). -/
def ackEpochOwner (q : PortId) (b : Byte) (n : Nat) (s : State) : Answer :=
  groupRequest q b true (judgeAck n) s

/-- Selects an ACK_EPOCH. -/
def asAckEpoch : ServiceReq → Option (Byte × BitVec 32)
  | .ackEpoch g n => some (g, n)
  | _ => none

/-- ACK_EPOCH_GRANT (R135). -/
def execAckEpochGrant (s : State) : Host.Outcome State Fault Refusal :=
  .next (grantHead asAckEpoch (fun q a => ackEpochOwner q a.1 a.2.toNat) s)

/-! ## Stalls -/

/-- Whether a group's stall is due (R137). -/
def stallDue (g : GroupId) (s : State) : Bool :=
  (group g s).state == .active && due s (group g s).stall

/-- A group set aside as STALLED (R137), its cursor and last-ack kept. -/
def stallGroup (g : GroupId) (s : State) : State :=
  retire (raiseIf (fun p => (rightsOf p s).subscriptions.getLsbD g.val || isSup p s) .groupStalled
    (updGroup g (fun gr => { gr with state := .stalled, stall := none })
      (updRecords (·.dropGroup g) s)))

/-- GROUP_STALL (R137). -/
def execGroupStall (g : GroupId) (s : State) : Host.Outcome State Fault Refusal :=
  .next (if stallDue g s then stallGroup g s else s)

end Sys2Proof.Machine
end

