-- ==== Sys2Proof/Machine/Sequencing.lean ====
section
/-! DEFINITION. The Intake Sequencer's shared operations: arrivals (R51, R53), the history (R58), delivery (R70, R71), drains (R72), giving up holes (R73), frozen lists (R75), and the effect of each class of SUBMIT_BLOCK (R64 to R69). -/

namespace Sys2Proof.Machine

/-- Blocks delivered in an event, in order of delivery: the pool record and the block as it was filed. -/
abbrev Delivered := List (Nat × Block)

/-! ## Arrival and history -/

/-- An arrival counted on the sequencing half (R51). -/
def SeqHalf.arrive (t clock : Nat) (q : SeqHalf) : SeqHalf :=
  { q with lastArrival := t, silenceMark := clock, silent := false }

/-- The arrival of a counted block (R51, R53): last arrival and silence mark refreshed, SILENT cleared, and STATION_STATE on the submitting port and the supervisor port when it was set. -/
def countArrival (p : PortId) (k : Slot) (s : State) : State :=
  let s1 := updSeq k (·.arrive (now s) s.silenceClock) s
  if (station k s).sq.silent then raiseWithSup p .stationState s1 else s1

/-- The expected sequence advanced by one, the number it held entering the history at distance 1 with the mark given (R58). -/
def SeqHalf.advance (delivered : Bool) (q : SeqHalf) : SeqHalf :=
  { q with expected := q.expected.map (· + 1),
           history := (q.history <<< 1) ||| (if delivered then 1 else 0) }

/-- The expected sequence advanced past so many numbers that are given up (R58, R73). -/
def SeqHalf.skip (n : Nat) (q : SeqHalf) : SeqHalf :=
  { q with expected := q.expected.map (· + BitVec.ofNat 16 n), history := q.history <<< n }

/-- Whether the number behind expected by b, from 1 to 64, is marked delivered (R58). -/
def SeqHalf.marked (q : SeqHalf) (b : Nat) : Bool := q.history.getLsbD (b - 1)

/-- The mark of the number behind expected by b set to delivered (R69). -/
def SeqHalf.mark (b : Nat) (q : SeqHalf) : SeqHalf :=
  { q with history := q.history ||| (1#64 <<< (b - 1)) }

/-- The distance (seq - expected) mod 65536 of R11. -/
def seqDistance (seq expected : SeqNo) : Nat := (seq - expected).toNat

/-! ## Delivery (R70, R71) -/

/-- Whether a block begins later, or earlier, than the last station end by more than half its sample interval (R70). -/
def timeFlags (b : Block) (lastEnd : Option Nat) : Bool × Bool :=
  match lastEnd with
  | none => (false, false)
  | some e =>
    let h := (sampleInterval b.rate).getD 0 / 2
    (decide (e + h < b.start), decide (b.start + h < e))

/-- The station end of a block (R54). -/
def Block.stationEnd (b : Block) : Nat := min (b.start + duration b.samples b.rate) Config.timeMax

/-- The block converted with a model (R71): network start, network end and generation. -/
def Block.converted (c : ClockHalf) (b : Block) : Block :=
  let ns := c.convert b.start
  { b with netStart := some ns
           netEnd := some (min (ns + duration b.samples b.rate) Config.timeMax)
           generation := c.generation }

/-- The later of a network end and delivered-until (R71). -/
def laterOf (old : Option Nat) (t : Nat) : Option Nat := some (max (old.getD 0) t)

/-- The delivery of the block in a pool record (R70, R71) and its filing; a LATE_FILL makes no time test and leaves last station end alone (R69). A record that is not in use is not delivered, which no reachable state meets. -/
def deliver (i : Nat) (gap lateFill : Bool) (s : State) : State × Delivered :=
  match block i s with
  | none => (s, [])
  | some b =>
    let st := station b.slot s
    let tf := if lateFill then (false, false) else timeFlags b st.sq.lastEnd
    let b1 := b.converted st.clk
    let b2 := { b1 with flags := { b1.flags with
      gap := b1.flags.gap || gap, timeGap := b1.flags.timeGap || tf.1,
      overlap := b1.flags.overlap || tf.2, lateFill := b1.flags.lateFill || lateFill } }
    let s1 := updSeq b.slot (fun q => { q with
      lastEnd := if lateFill then q.lastEnd else some b.stationEnd
      deliveredUntil := laterOf q.deliveredUntil (b2.netEnd.getD 0) }) s
    let s2 := updBlock i (fun _ => b2) s1
    let (s3, b3) := fileBlock i b2 s2
    (s3, [(i, b3)])

/-! ## Drains and holes (R72, R73) -/

/-- The drain of R72: while the lowest held block has the expected sequence number it is removed, delivered without GAP, and the expected sequence advances; at most `fuel` blocks. -/
def drain (k : Slot) : Nat → State → State × Delivered
  | 0, s => (s, [])
  | fuel + 1, s =>
    match (station k s).sq.held with
    | [] => (s, [])
    | i :: rest =>
      match block i s, (station k s).sq.expected with
      | some b, some e =>
        if b.seq = e then
          let (s1, d) := deliver i false false (updSeq k (fun q => { q with held := rest }) s)
          let (s2, ds) := drain k fuel (updSeq k (·.advance true) s1)
          (s2, d ++ ds)
        else (s, [])
      | _, _ => (s, [])

/-- held-since after the expected sequence has advanced in an event (R72): absent when the list is empty, now otherwise. -/
def settleHold (k : Slot) (s : State) : State :=
  updSeq k (fun q => { q with heldSince := if q.held.isEmpty then none else some (now s) }) s

/-- The drain of the whole list and the setting of held-since (R72). -/
def drainAll (k : Slot) (s : State) : State × Delivered :=
  let (s1, d) := drain k (station k s).sq.held.length s
  (settleHold k s1, d)

/-- The front hole given up (R73): the numbers before the lowest held block are skipped, the block is delivered with GAP, and the list is drained. -/
def giveUp (k : Slot) (s : State) : State × Delivered :=
  match (station k s).sq.held with
  | [] => (s, [])
  | i :: rest =>
    match block i s, (station k s).sq.expected with
    | some b, some e =>
      let s1 := updSeq k (fun q => ({ q with held := rest }).skip (seqDistance b.seq e)) s
      let (s2, d) := deliver i true false s1
      let (s3, ds) := drainAll k (updSeq k (·.advance true) s2)
      (s3, d ++ ds)
    | _, _ => (s, [])

/-- Holes given up until the list holds no more than its depth, at most `fuel` times (R77). -/
def giveUpToDepth (k : Slot) : Nat → State → State
  | 0, s => s
  | fuel + 1, s =>
    if (station k s).sq.depth < (station k s).sq.held.length then
      giveUpToDepth k fuel (giveUp k s).1
    else s

/-- A frozen list cut to its depth (R75): the blocks with the highest numbers are freed in descending order and counted as discarded. -/
def discardToDepth (k : Slot) (s : State) : State :=
  let q := (station k s).sq
  let gone := (q.held.drop q.depth).reverse
  freeBlocks gone (updSeq k (fun q => { q with
    held := q.held.take q.depth
    heldSince := if (q.held.take q.depth).isEmpty then none else q.heldSince
    discarded := min (q.discarded + gone.length) 65535 }) s)

/-! ## Classification (R62) and the effect of each class (R64 to R69) -/

/-- The class of a block (R62, Table 4-4). -/
inductive BlockClass
  | first | inOrder | ahead | restart | lateFill (behind : Nat)
  | duplicateInUse | duplicateInHistory | stale
deriving DecidableEq, Repr

/-- The classification of a sequence number for a station (R62). -/
def classify (k : Slot) (seq : SeqNo) (s : State) : BlockClass :=
  if s.pool.used.any fun e => decide (e.2.slot = k ∧ e.2.seq = seq) then .duplicateInUse
  else
    match (station k s).sq.expected with
    | none => .first
    | some e =>
      let d := seqDistance seq e
      let b := 65536 - d
      if d = 0 then .inOrder
      else if d ≤ 64 then .ahead
      else if d ≤ 32767 then .restart
      else if b ≤ 64 then
        if (station k s).sq.marked b then .duplicateInHistory else .lateFill b
      else .stale

/-- A record inserted in a reorder list in ascending order of distance from the expected sequence (R66). -/
def insertHeld (s : State) (e : SeqNo) (i d : Nat) : List Nat → List Nat
  | [] => [i]
  | j :: l =>
    let dj := ((block j s).map fun b => seqDistance b.seq e).getD 0
    if d < dj then i :: j :: l else j :: insertHeld s e i d l

/-- The new block in its station's reorder list (R66). -/
def joinList (k : Slot) (i : Nat) (seq : SeqNo) (s : State) : State :=
  updSeq k (fun q => { q with
    held := insertHeld s (q.expected.getD 0) i (seqDistance seq (q.expected.getD 0)) q.held
    heldSince := if q.held.isEmpty then some (now s) else q.heldSince }) s

/-- FIRST (R64): the expected sequence starts at the block's number with an empty history, then as IN_ORDER. -/
def takeFirst (k : Slot) (i : Nat) (seq : SeqNo) (s : State) : State × Delivered :=
  let (s1, d) := deliver i false false s
  let (s2, ds) := drainAll k
    (updSeq k (fun q => ({ q with expected := some seq, history := 0 }).advance true) s1)
  (s2, d ++ ds)

/-- IN_ORDER (R64): delivered at once, the expected sequence advances, held blocks drain. -/
def takeInOrder (k : Slot) (i : Nat) (s : State) : State × Delivered :=
  let (s1, d) := deliver i false false s
  let (s2, ds) := drainAll k (updSeq k (·.advance true) s1)
  (s2, d ++ ds)

/-- AHEAD at reorder depth 0 (R65): the missing numbers are skipped and the block is delivered with GAP. -/
def takeAheadDepthZero (k : Slot) (i : Nat) (seq : SeqNo) (s : State) : State × Delivered :=
  let n := seqDistance seq ((station k s).sq.expected.getD 0)
  let (s1, d) := deliver i true false (updSeq k (·.skip n) s)
  (updSeq k (·.advance true) s1, d)

/-- AHEAD (R65, R66, R67): depth 0, a place in the list, or a full list whose front hole is given up. -/
def takeAhead (k : Slot) (i : Nat) (seq : SeqNo) (s : State) : State × Delivered :=
  let q := (station k s).sq
  if q.depth = 0 then takeAheadDepthZero k i seq s
  else if q.held.length < q.depth then (joinList k i seq s, [])
  else giveUp k (joinList k i seq s)

/-- The held blocks of a restart delivered in order (R68): the first with GAP, each later one with GAP when its number is not the previous delivered number plus 1. -/
def deliverHeld : Option SeqNo → List Nat → State → State × Delivered
  | _, [], s => (s, [])
  | previous, i :: l, s =>
    let seq := (block i s).map (·.seq)
    let gap := match previous, seq with
      | some a, some b => b != a + 1
      | _, _ => true
    let (s1, d) := deliver i gap false s
    let (s2, ds) := deliverHeld seq l s1
    (s2, d ++ ds)

/-- The history of a restart (R68): the numbers delivered in the event that lie behind the new expected sequence by 1 to 64 are marked delivered. -/
def restartHistory (expected : SeqNo) (d : Delivered) : BitVec 64 :=
  d.foldl (fun h e =>
    let b := seqDistance expected e.2.seq
    if 1 ≤ b ∧ b ≤ 64 then h ||| (1#64 <<< (b - 1)) else h) 0

/-- RESTART (R68): every held block and then the new block delivered, the expected sequence and the history replaced, the list empty. -/
def takeRestart (k : Slot) (i : Nat) (seq : SeqNo) (s : State) : State × Delivered :=
  let held := (station k s).sq.held
  let (s1, d1) := deliverHeld none held (updSeq k (fun q => { q with held := [] }) s)
  let (s2, d2) := deliver i true false s1
  (updSeq k (fun q => { q with expected := some (seq + 1), heldSince := none,
                               history := restartHistory (seq + 1) (d1 ++ d2) }) s2, d1 ++ d2)

/-- LATE_FILL (R69): delivered at once with the flag, its history mark set, nothing drained. -/
def takeLateFill (k : Slot) (i behind : Nat) (s : State) : State × Delivered :=
  let (s1, d) := deliver i false true s
  (updSeq k (·.mark behind) s1, d)

/-- The effect of a taken block's class (Table 4-5); DUPLICATE and STALE are not taken (R62). -/
def takeBlock (k : Slot) (i : Nat) (seq : SeqNo) (c : BlockClass) (s : State) :
    State × Delivered :=
  match c with
  | .first => takeFirst k i seq s
  | .inOrder => takeInOrder k i s
  | .ahead => takeAhead k i seq s
  | .restart => takeRestart k i seq s
  | .lateFill b => takeLateFill k i b s
  | .duplicateInUse | .duplicateInHistory | .stale => (s, [])

end Sys2Proof.Machine
end

