-- ==== Sys2Proof/Machine/Retiming.lean ====
section
/-! DEFINITION. Re-timing (chapter 7): the queue and the start (R116, R117), the re-placement step (R118 to R121), the final step (R122), the restart (R123), whether a station's zone deadline in a record has passed (R104), and the three commands of a re-time. -/

namespace Sys2Proof.Machine

/-! ## Whether a zone deadline has passed (R104) -/

/-- Whether the deadline of zone z in an OPEN record has passed, and the record as the question leaves it: a deadline that is absent after the end event becomes pending at its nominal value when that lies after now (R104). -/
def judgeDeadline (z : ZoneId) (s : State) (r : Record) : Bool × Record :=
  let ze := zoneEntry z s
  if !r.ended then (false, r)
  else if ze.mode = .noWait then (true, r)
  else
    match r.zones[z].deadline with
    | .expired _ => (true, r)
    | .pending _ => (false, r)
    | .absent =>
      let nominal := (ze.deadlineFrom (s.ring.epochEnd r.epoch) 0).getD 0
      if nominal ≤ now s then (true, r)
      else (false, { r with zones := put r.zones z { deadline := .pending nominal, extension := 0 } })

/-! ## Queue, start and restart -/

/-- Counts of a pass that has done nothing (R117). -/
def RetimeCounts.zero : RetimeCounts :=
  { moved := 0, updated := 0, carried := 0, misplaced := 0, skipped := 0, leftInSealed := 0 }

/-- The blocks of a station with a generation other than the target, over the records selected, in ring order (R117). -/
def olderBlocks (sel : Record → Bool) (k : Slot) (target : Gen) (s : State) : List (Nat × Block) :=
  (s.ring.records.filter sel).flatMap fun r =>
    (blocksOf k r.blocks s).filter fun e => decide (e.2.generation ≠ target)

/-- A pass of a re-time as a start or a restart sets it up (R117, R123). -/
def newPass (k : Slot) (restarts : Nat) (s : State) : Running :=
  let target := (station k s).clk.generation
  { slot := k, target := target
    snapshot := (olderBlocks Record.isOpen k target s).map fun e => (e.1, e.2.seq)
    counts := { RetimeCounts.zero with
      leftInSealed := (olderBlocks (fun r => !r.isOpen) k target s).length }
    restarts := restarts }

/-- The start of a re-time when the queue is non-empty and none is running (R117). -/
def startRetime (s : State) : State :=
  match s.retime.running, s.retime.queue with
  | none, k :: rest => { s with retime := { queue := rest, running := some (newPass k 0 s) } }
  | _, _ => s

/-- Whether a station has blocks filed in OPEN records (R116). -/
def hasOpenBlocks (k : Slot) (s : State) : Bool :=
  s.ring.records.any fun r => r.isOpen && !(blocksOf k r.blocks s).isEmpty

/-- A re-time notice (R116): a running station restarts (R123), a queued one keeps its place, any other joins the queue when it has blocks filed in OPEN records, and the start follows when nothing is running. -/
def retimeNotice (k : Slot) (s : State) : State :=
  match s.retime.running with
  | some r =>
    if r.slot = k then
      { s with retime := { s.retime with running := some (newPass k (min (r.restarts + 1) 255) s) } }
    else if k ∈ s.retime.queue then s
    else if s.ring.state = .active ∧ hasOpenBlocks k s then
      updStation k (fun st => { st with retiming := true })
        { s with retime := { s.retime with queue := s.retime.queue ++ [k] } }
    else s
  | none =>
    if k ∈ s.retime.queue then s
    else if s.ring.state = .active ∧ hasOpenBlocks k s then
      startRetime (updStation k (fun st => { st with retiming := true })
        { s with retime := { s.retime with queue := s.retime.queue ++ [k] } })
    else s

/-! ## Re-placement (R119 to R121) -/

/-- What a re-placement does with a block (R119), or that eviction freed it first (R121). -/
inductive Replaced
  | updated | moved | carried | misplaced | skipped
deriving DecidableEq, Repr

/-- The counts with one more of an outcome (R118, R119). -/
def RetimeCounts.bump (c : RetimeCounts) : Replaced → RetimeCounts
  | .updated => { c with updated := c.updated + 1 }
  | .moved => { c with moved := c.moved + 1 }
  | .carried => { c with carried := c.carried + 1 }
  | .misplaced => { c with misplaced := c.misplaced + 1 }
  | .skipped => { c with skipped := c.skipped + 1 }

/-- The place of a block after a step, from the record it is filed in and its new network start, with the state after the openings that the choice needs (R119, R121). -/
def chooseReplacement (own netStart : Nat) (s : State) : State × Nat × Replaced :=
  match s.ring.epochOf netStart, newest s with
  | some e, some r =>
    if e = own then (s, own, .updated)
    else if e ≤ r.epoch then
      if ((findRecord e s).map Record.isOpen).getD false then (s, e, .moved)
      else (s, (oldestOpen s).getD own, .carried)
    else if openable e s then
      let s1 := openUpTo e s
      if (findRecord own s1).isSome then (s1, e, .moved) else (s1, own, .skipped)
    else (s, own, .misplaced)
  | _, _ => (s, (oldestOpen s).getD own, .carried)

/-- An entry's count lowered by 1; a count at 255 is not lowered (R120). -/
def Entry.countDown (e : Entry) : Entry :=
  if e.count = 255 then e else { e with count := e.count - 1 }

/-- One OPEN record as the old times of a re-placed block leave it (R120): the count lowered where the block was filed or overlapped, and the block gone from the list it leaves. -/
def leaveRecord (ring : Ring) (own target i : Nat) (b : Block) (r : Record) : Record :=
  if r.isOpen && (decide (r.epoch = own) || ring.blockOverlaps b r.epoch) then
    let leaves := decide (r.epoch = own) && decide (own ≠ target)
    { r with entries := put r.entries b.slot r.entries[b.slot].countDown
             blocks := if leaves then r.blocks.filter (· != i) else r.blocks
             late := if leaves && b.flags.late then r.late - 1 else r.late }
  else r

/-- One OPEN record as the new times of a re-placed block leave it (R120): the count raised and the gap mark set as a filing does, the block appended to the list it joins, and the late count raised by a block carried into it, or carried in place when it was not LATE before. -/
def joinRecord (ring : Ring) (own target i : Nat) (wasLate carried : Bool) (b : Block)
    (r : Record) : Record :=
  let mine := decide (r.epoch = target)
  let reaches := ring.blockOverlaps b r.epoch
  if r.isOpen && (mine || reaches) then
    let e := r.entries[b.slot].countUp
    let joins := mine && decide (own ≠ target)
    { r with entries := put r.entries b.slot (if reaches && b.flags.marksGap then e.markGap else e)
             blocks := if joins then r.blocks ++ [i] else r.blocks
             late := if mine && carried && (joins || !wasLate) then r.late + 1 else r.late }
  else r

/-- The re-placement of a block filed in an OPEN record (R119 to R121) and what it counts as. -/
def replaceBlock (i : Nat) (b : Block) (own : Nat) (target : Gen) (s : State) : State × Replaced :=
  let b1 := b.converted (station b.slot s).clk
  match chooseReplacement own (b1.netStart.getD 0) s with
  | (s1, _, .skipped) => (s1, .skipped)
  | (s1, e, kind) =>
    let b2 := { b1 with
      generation := target
      place := .filed e
      flags := { b1.flags with retimed := true
                               late := b1.flags.late || kind == .carried
                               misplaced := b1.flags.misplaced || kind == .misplaced } }
    let s2 := updRecords (leaveRecord s1.ring own e i b) s1
    let s3 := updRecords (joinRecord s1.ring own e i b.flags.late (kind == .carried) b2) s2
    (updBlock i (fun _ => b2) s3, kind)

/-- The running re-time changed. -/
def updRunning (f : Running → Running) (s : State) : State :=
  { s with retime := { s.retime with running := s.retime.running.map f } }

/-- One re-placement step (R118): the first snapshot entry removed and dealt with; without a model every entry left is skipped. -/
def stepEntry (r : Running) (i : Nat) (q : SeqNo) (rest : List (Nat × SeqNo)) (s : State) : State :=
  if !hasModel r.slot s then
    updRunning (fun r => { r with snapshot := [], counts := { r.counts with
      skipped := r.counts.skipped + 1 + rest.length } }) s
  else
    let s1 := updRunning (fun r => { r with snapshot := rest }) s
    let skip := updRunning (fun r => { r with counts := r.counts.bump .skipped }) s1
    match block i s with
    | none => skip
    | some b =>
      if b.slot ≠ r.slot ∨ b.seq ≠ q ∨ b.generation = r.target then skip
      else
        match b.place with
        | .held => skip
        | .filed e =>
          match findRecord e s with
          | none => skip
          | some rec =>
            if rec.isOpen then
              let (s2, kind) := replaceBlock i b e r.target s1
              updRunning (fun r => { r with counts := r.counts.bump kind }) s2
            else
              updRunning (fun r => { r with counts :=
                { r.counts with leftInSealed := r.counts.leftInSealed + 1 } }) s1

/-! ## The final step (R122) -/

/-- delivered-until from the last station end and the present model, when both are present (R122, step 1). -/
def recomputeCoverage (k : Slot) (s : State) : State :=
  match (station k s).sq.lastEnd with
  | some t =>
    if hasModel k s then
      updSeq k (fun q => { q with deliveredUntil := some ((station k s).clk.convert t) }) s
    else s
  | none => s

/-- The status of a station recomputed in one record (R122, step 2). -/
def recomputeStatus (k : Slot) (s : State) (r : Record) : Record :=
  let e := r.entries[k]
  let set (x : Status) (r : Record) : Record :=
    { r with entries := put r.entries k { e with status := x } }
  if r.isOpen && (e.status == .waiting || e.status.isPassed) then
    if covers k r.epoch s then set (passedStatus e.gap) r
    else if eligible k s then
      let (late, r1) := judgeDeadline (station k s).clk.zone s r
      set (if late then .absentTimeout else .waiting) r1
    else if !(station k s).clk.state.canBeEligible then set .absentState r
    else if (station k s).sq.silent then set .absentSilent r
    else set .absentTimeout r
  else r

/-- The final step of the running re-time (R122), in its six steps. -/
def finalStep (run : Running) (s : State) : State :=
  let k := run.slot
  let s1 := recomputeCoverage k s
  let s2 := updRecords (recomputeStatus k s1) s1
  let s3 := updStation k (fun st => { st with retiming := false }) s2
  let s4 := finishSeals (sealTest (fun r => decide (r ∉ s1.ring.records) || r.deferred) s3)
  let report : RetimeReport :=
    { target := run.target, counts := run.counts, restarts := run.restarts, time := now s4 }
  let s5 := updStation k (fun st => { st with lastReport := some report }) s4
  let s6 := raiseSup .retimeDone s5
  startRetime { s6 with retime := { s6.retime with running := none } }

/-! ## The commands -/

/-- RETIME_START (R117). The start is made in the event of a notice or of a final step, so in every state that a run reaches there is nothing left to start (log 4). -/
def execRetimeStart (s : State) : Host.Outcome State Fault Refusal := .next (startRetime s)

/-- RETIME_STEP (R118 to R121): the first entry of the running re-time's snapshot; the tuning taken by a forced seal of an opening follows (R114). -/
def execRetimeStep (s : State) : Host.Outcome State Fault Refusal :=
  match s.retime.running with
  | some r =>
    match r.snapshot with
    | (i, q) :: rest => .next (finishSeals (stepEntry r i q rest s))
    | [] => .next s
  | none => .next s

/-- RETIME_FINAL_STEP (R122), once the snapshot is empty; a quiesce that waited for it is granted (R147). -/
def execRetimeFinalStep (s : State) : Host.Outcome State Fault Refusal :=
  match s.retime.running with
  | some r => if r.snapshot.isEmpty then .next (tryQuiesceGrant (finalStep r s)) else .next s
  | none => .next s

end Sys2Proof.Machine
end

