-- ==== Sys2Proof/Machine/Epochs.lean ====
section
/-! DEFINITION. The Epoch Ring Unit's commands: the grants of START_RING (R81, R82) and ZONE_FLUSHED (R107), the eligibility-loss notice (R96), the boundary event (R86), a record's end event (R103) and the expiry of a zone deadline (R105). -/

namespace Sys2Proof.Machine

/-! ## START_RING -/

/-- The ring state as the reply to a refused START_RING gives it (R81, log 13). -/
def ringStateField (s : State) : Field :=
  .bit (if s.ring.state = .active then Config.ringActive else !Config.ringActive)

/-- A refused START_RING (R81): the field it names, if any, then now and the ring state. -/
def refuseStart (code : Code) (s : State) (named : List Field := []) : Answer :=
  refuse code s (named ++ [.num 7 (now s), ringStateField s])

/-- A ring with its origin and length set, and a base (R82). -/
def Ring.started (origin length base : Nat) : Ring :=
  { state := .active, origin := some origin, length := some length, base := some base,
    releaseCount := 0, boundary := none, records := [] }

/-- The start of the ring (R82): ACTIVE at the epoch of now, the base record opened. -/
def startRing (origin length : Nat) (s : State) : Answer :=
  let base := (now s - origin) / seconds length
  let s1 := openRecord base { s with ring := .started origin length base }
  { st := s1, code := .done
    data := [.num 4 base, .num 7 (s1.ring.epochStart base), .num 7 (s1.ring.epochEnd base),
      .num 7 (now s)] }

/-- START_RING at its grant (R81, R82). -/
def startRingOwner (q : PortId) (origin : BitVec 56) (length : Byte) (s : State) : Answer :=
  if !isSup q s then refuseStart .notSupervisor s
  else if s.ring.state = .active then refuseStart .wrongState s
  else if !s.tb.timeSet then refuseStart .timeUnset s
  else if length.toNat < 1 ∨ 120 < length.toNat then refuseStart .badRequest s [.num 1 7]
  else if origin.toNat % 1000000 ≠ 0 ∨ now s < origin.toNat then
    refuseStart .badRequest s [.num 1 0]
  else if Config.epochMax < (now s - origin.toNat) / seconds length.toNat then
    refuseStart .badRequest s [.num 1 0]
  else startRing origin.toNat length.toNat s

/-- Selects a START_RING. -/
def asStartRing : ServiceReq → Option (BitVec 56 × Byte)
  | .startRing o l => some (o, l)
  | _ => none

/-- START_RING_GRANT (R81, R82). -/
def execStartRingGrant (s : State) : Host.Outcome State Fault Refusal :=
  .next (grantHead asStartRing (fun q a => startRingOwner q a.1 a.2) s)

/-! ## ZONE_FLUSHED -/

/-- Whether an OPEN record ends by t (R107). -/
def flushReaches (t : Nat) (s : State) (r : Record) : Bool :=
  r.isOpen && decide (s.ring.epochEnd r.epoch ≤ t)

/-- Whether station k is WAITING in a record and in zone z now. -/
def waitsInZone (z : ZoneId) (s : State) (r : Record) (k : Slot) : Bool :=
  r.entries[k].status == .waiting && (station k s).clk.zone == z

/-- The zone's WAITING entries of a record given up with a status. -/
def giveUpZone (z : ZoneId) (x : Status) (s : State) (r : Record) : Record :=
  { r with entries := imap (fun k e => if (station k s).clk.zone = z then e.giveUp x else e) r.entries }

/-- The number of a zone's stations WAITING in a record. -/
def waitingInZone (z : ZoneId) (s : State) (r : Record) : Nat :=
  ((List.finRange 64).filter fun k => waitsInZone z s r k).length

/-- The flush of a SIGNALLED zone up to t (R107), and what its reply counts. -/
def flushZone (z : ZoneId) (t : Nat) (s : State) : Answer :=
  let reached := s.ring.records.filter (flushReaches t s)
  let s1 := updRecords (fun r => if flushReaches t s r then giveUpZone z .absentFlushed s r else r) s
  { st := sealChanged s.ring.records s1, code := .done
    data := [.num 1 reached.length, .num 2 (reached.map (waitingInZone z s)).sum] }

/-- ZONE_FLUSHED at its grant (R107). -/
def zoneFlushedOwner (zone : Byte) (t : BitVec 56) (s : State) : Answer :=
  match zoneOf zone with
  | none => refuse .badRequest s [.num 1 0]
  | some z =>
    if s.ring.state = .stopped then refuse .ringStopped s
    else if (zoneEntry z s).mode ≠ .signalled then refuse .wrongState s
    else flushZone z t.toNat s

/-- Selects a ZONE_FLUSHED. -/
def asZoneFlushed : ServiceReq → Option (Byte × BitVec 56)
  | .zoneFlushed z t => some (z, t)
  | _ => none

/-- ZONE_FLUSHED_GRANT (R107), the tuning taken with a seal (R114) and the quiesce that waited for it (R147) after its own work. -/
def execZoneFlushedGrant (s : State) : Host.Outcome State Fault Refusal :=
  .next (tryQuiesceGrant (finishSeals
    (grantHead asZoneFlushed (fun _ a => zoneFlushedOwner a.1 a.2) s)))

/-! ## Eligibility loss -/

/-- A station's WAITING entries in OPEN records given a status (R96). -/
def markLost (k : Slot) (x : Status) (s : State) : State :=
  updRecords (fun r => if r.isOpen then
    { r with entries := put r.entries k (r.entries[k].giveUp x) } else r) s

/-- ELIGIBILITY_LOSS_NOTICE (R96): the oldest notice handed over is taken; without one there is no event. -/
def execEligibilityLossNotice (s : State) : Host.Outcome State Fault Refusal :=
  match s.notices with
  | n :: rest =>
    .next (finishSeals (sealChanged s.ring.records
      (markLost n.slot n.status { s with notices := rest })))
  | [] => .next s

/-! ## Boundaries, ends and deadlines -/

/-- BOUNDARY_EVENT (R86): every epoch from the one above the newest record up to the epoch of now is opened; none above 4294967295 (R88). -/
def execBoundaryEvent (s : State) : Host.Outcome State Fault Refusal :=
  if due s s.ring.boundary then
    match s.ring.epochOf (now s) with
    | some e => .next (finishSeals (openUpTo (min e Config.epochMax) s))
    | none => .next s
  else .next s

/-- The deadline of zone z that the end event of a record sets (R103). -/
def endDeadline (s : State) (r : Record) (z : ZoneId) (w : ZoneWait) : ZoneWait :=
  if (List.finRange 64).any fun k => waitsInZone z s r k then
    match (zoneEntry z s).deadlineFrom (s.ring.epochEnd r.epoch) 0 with
    | some t => { deadline := .pending t, extension := 0 }
    | none => w
  else w

/-- A record after its end event, before the seal test (R103): each zone with a station WAITING has its deadline set, and the stations of a NO_WAIT zone are given up. -/
def endRecord (s : State) (r : Record) : Record :=
  if r.isOpen then
    { r with
      ended := true
      zones := imap (fun z w => endDeadline s r z w) r.zones
      entries := imap (fun k e =>
        if (zoneEntry (station k s).clk.zone s).mode = .noWait then e.giveUp .absentTimeout else e)
        r.entries }
  else { r with ended := true }

/-- Whether a record's end event is due and has not occurred (R103). -/
def endDue (s : State) (r : Record) : Bool :=
  !r.ended && decide (s.ring.epochEnd r.epoch ≤ now s)

/-- RECORD_END_EVENT (R103) of the record for an epoch. -/
def execRecordEndEvent (epoch : BitVec 32) (s : State) : Host.Outcome State Fault Refusal :=
  match findRecord epoch.toNat s with
  | some r =>
    if endDue s r then
      .next (finishSeals (sealTest (fun r => decide (r.epoch = epoch.toNat))
        (updRecord epoch.toNat (endRecord s) s)))
    else .next s
  | none => .next s

/-- Whether the deadline of zone z is pending in an OPEN record and now has reached it (R105). -/
def deadlineDue (z : ZoneId) (s : State) (r : Record) : Bool :=
  r.isOpen && match r.zones[z].deadline with
    | .pending t => decide (t ≤ now s)
    | _ => false

/-- A pending deadline that expires keeps its value (06, section 6.2). -/
def ZoneWait.expire (w : ZoneWait) : ZoneWait :=
  match w.deadline with
  | .pending t => { w with deadline := .expired t }
  | _ => w

/-- The expiry of a zone's deadline in a record, before the seal test (R105). -/
def expireZone (z : ZoneId) (s : State) (r : Record) : Record :=
  { giveUpZone z .absentTimeout s r with zones := put r.zones z r.zones[z].expire }

/-- ZONE_DEADLINE_EXPIRY (R105) of a zone in the record for an epoch. -/
def execZoneDeadlineExpiry (epoch : BitVec 32) (z : ZoneId) (s : State) :
    Host.Outcome State Fault Refusal :=
  match findRecord epoch.toNat s with
  | some r =>
    if deadlineDue z s r then
      .next (finishSeals (sealTest (fun r => decide (r.epoch = epoch.toNat))
        (updRecord epoch.toNat (expireZone z s) s)))
    else .next s
  | none => .next s

end Sys2Proof.Machine
end

