-- ==== Sys2Proof/Machine/Intake.lean ====
section
/-! DEFINITION. The Intake Sequencer's commands: the grant of a SUBMIT_BLOCK (R59 to R63), the silence expiry (R52) and the hold expiry (R74, R75). -/

namespace Sys2Proof.Machine

/-! ## SUBMIT_BLOCK at its grant -/

/-- The reply to a SUBMIT_BLOCK (R59): slot, sequence number and free count after the event, then what the outcome adds. -/
def blockAnswer (b : BlockReq) (code : Code) (more : List Field) (s : State) : Answer :=
  { st := s, code := code
    data := [.num 1 b.slot.toNat, .num 2 b.seq.toNat, .num 2 s.pool.freeCount] ++ more }

/-- The first field of a block found out of range (R61), named by its offset in the body (R176). -/
def blockRangeFault (b : BlockReq) (epochLength : Nat) : Option Nat :=
  if b.samples.toNat < 1 ∨ 4096 < b.samples.toNat then some 10
  else if 8 < b.rate.toNat then some 12
  else if b.channels.toNat < 1 ∨ 6 < b.channels.toNat then some 13
  else if 4 * epochLength < duration b.samples.toNat b.rate.toNat then some 10
  else none

/-- A block record as it is filled at the taking (R54). -/
def newBlock (k : Slot) (b : BlockReq) : Block :=
  { slot := k, seq := b.seq, start := b.start.toNat, samples := b.samples.toNat,
    rate := b.rate.toNat, channels := b.channels.toNat, handle := b.handle, netStart := none,
    netEnd := none, generation := 0, flags := .none, place := .held }

/-- What a FILED reply adds (R59): the block as it was filed, the restart mark, the drained count. -/
def filedData (b : Block) (restart : Bool) (drained : Nat) : List Field :=
  [.num 4 (match b.place with
      | .filed e => e
      | .held => 0),
    .flags b.flags.list, .num 7 (b.netStart.getD 0), .num 7 (b.netEnd.getD 0),
    .num 2 b.generation.toNat, .bit restart, .num 1 drained]

/-- The outcome of a taken block (Table 4-5): FILED when it was delivered in the event, HELD when it is still in the list. The expected sequence of a HELD reply has no presence byte (DESIGN CHOICE, log 12). -/
def takenAnswer (b : BlockReq) (k : Slot) (i : Nat) (restart : Bool) (d : Delivered) (s : State) :
    Answer :=
  match d.find? (fun e => e.1 == i) with
  | some e => blockAnswer b .filed (filedData e.2 restart (d.length - 1)) s
  | none =>
    blockAnswer b .held [.num 1 (station k s).sq.held.length,
      .num 2 ((station k s).sq.expected.getD 0).toNat, .num 1 d.length] s

/-- The last checks and the taking (R63): the pool, the future tolerance, then the effect of the class. -/
def takeSubmission (q : PortId) (k : Slot) (b : BlockReq) (c : BlockClass) (s : State) : Answer :=
  match s.pool.head with
  | none => blockAnswer b .poolFull [] (raiseWithSup q .poolExhausted s)
  | some i =>
    let ns := (station k s).clk.convert b.start.toNat
    let limit := futureLimit s
    if limit < ns then blockAnswer b .future [.num 7 ns, .num 7 limit] s
    else
      let (s1, d) := takeBlock k i b.seq c (updPool (·.take (newBlock k b)) s)
      takenAnswer b k i (c == .restart) d s1

/-- A block that has reached the range checks (R61 to R63), its arrival counted. The expected sequence of a STALE reply has no presence byte (DESIGN CHOICE, log 12). -/
def sequenceBlock (q : PortId) (k : Slot) (b : BlockReq) (s : State) : Answer :=
  match blockRangeFault b s.ring.lengthUs with
  | some o => blockAnswer b .badRequest [.num 1 o] s
  | none =>
    match classify k b.seq s with
    | .duplicateInUse => blockAnswer b .duplicate [.bit Config.duplicateInUse] s
    | .duplicateInHistory => blockAnswer b .duplicate [.bit !Config.duplicateInUse] s
    | .stale =>
      blockAnswer b .stale [.num 2 ((station k s).sq.expected.getD 0).toNat] s
    | c => takeSubmission q k b c s

/-- The refusals of R60 that the station's clock state decides. -/
def blockStateRefusal : ClockState → Option Code
  | .vacant => some .noStation
  | .acquiring => some .noModel
  | .quarantined => some .quarantinedStation
  | .locked | .tracking | .unreliable => none

/-- SUBMIT_BLOCK at its grant (R59 to R69). -/
def submitBlockOwner (q : PortId) (b : BlockReq) (s : State) : Answer :=
  if s.ring.state = .stopped then blockAnswer b .ringStopped [] s
  else
    match slotOf b.slot with
    | none => blockAnswer b .badRequest [.num 1 0] s
    | some k =>
      match blockStateRefusal (station k s).clk.state with
      | some c => blockAnswer b c [] s
      | none => sequenceBlock q k b (countArrival q k s)

/-- Selects a SUBMIT_BLOCK. -/
def asSubmitBlock : ServiceReq → Option BlockReq
  | .submitBlock b => some b
  | _ => none

/-- SUBMIT_BLOCK_GRANT (R59), the tuning taken with a seal (R114) and the quiesce that waited for it (R147) after its own work. -/
def execSubmitBlockGrant (s : State) : Host.Outcome State Fault Refusal :=
  .next (tryQuiesceGrant (finishSeals (grantHead asSubmitBlock submitBlockOwner s)))

/-! ## The timer events -/

/-- Whether the silence timer of a station has expired (R52): not VACANT, SILENT clear, the clock running, and the limit reached since its mark. -/
def silenceDue (k : Slot) (s : State) : Bool :=
  (station k s).clk.state != .vacant && !(station k s).sq.silent && s.sup.quiesce == .running &&
    decide (seconds (tuning s).silenceLimit ≤ s.silenceClock - (station k s).sq.silenceMark)

/-- SILENCE_EXPIRY (R52): SILENT set, STATION_STATE on the supervisor port, and a notice when the station was eligible. -/
def execSilenceExpiry (k : Slot) (s : State) : Host.Outcome State Fault Refusal :=
  if silenceDue k s then
    let s1 := raiseSup .stationState (updSeq k (fun q => { q with silent := true }) s)
    .next (if eligible k s then
        { s1 with notices := s1.notices ++ [{ slot := k, status := .absentSilent }] }
      else s1)
  else .next s

/-- Whether the hold timer of a station has expired (R74). -/
def holdDue (k : Slot) (s : State) : Bool :=
  !(station k s).sq.held.isEmpty && match (station k s).sq.heldSince with
    | some t => decide (seconds (zoneEntry (station k s).clk.zone s).hold ≤ elapsed s t)
    | none => false

/-- HOLD_EXPIRY (R74, R75): the front hole is given up, or the timer runs again on a frozen list. -/
def execHoldExpiry (k : Slot) (s : State) : Host.Outcome State Fault Refusal :=
  if holdDue k s then
    if (station k s).clk.state.aged then .next (finishSeals (giveUp k s).1)
    else .next (updSeq k (fun q => { q with heldSince := some (now s) }) s)
  else .next s

end Sys2Proof.Machine
end

