-- ==== Sys2Proof/Machine/Clock.lean ====
section
/-! DEFINITION. The Clock Model Unit's shared operations: what a timing report does to the clock half of a station record (R18 to R28), what the change sets off (R15, R16, R29), and the model aging sweep (R44 to R48). -/

namespace Sys2Proof.Machine

/-! ## Timing reports -/

/-- What a report makes of the clock half, its outcome, the residual when the gate test was made, and whether the fault action was taken (R17, R26). -/
structure ReportResult where
  clk : ClockHalf
  code : Code
  residual : Option Int
  faulted : Bool
deriving DecidableEq, Repr

/-- Acquisition complete (R22): LOCKED or TRACKING by the lock flag, the counts 0. -/
def ClockHalf.complete (lock : Bool) (c : ClockHalf) : ClockHalf :=
  { c with state := if lock then .locked else .tracking, acquisition := 0, lockOff := 0 }

/-- The acquisition count given a value, and acquisition completed when it reaches the tuning count (R22). -/
def ClockHalf.acquire (t : Tuning) (lock : Bool) (n : Nat) (c : ClockHalf) : ClockHalf :=
  if t.acquisition ≤ n then c.complete lock else { c with acquisition := n }

/-- The lock flag applied in LOCKED, TRACKING or UNRELIABLE (R23). -/
def ClockHalf.applyLock (t : Tuning) (lock : Bool) (c : ClockHalf) : ClockHalf :=
  match c.state, lock with
  | .locked, true => { c with lockOff := 0 }
  | .locked, false =>
    if t.lockOffFilter ≤ c.lockOff + 1 then { c with state := .tracking, lockOff := 0 }
    else { c with lockOff := c.lockOff + 1 }
  | .tracking, true => { c with state := .locked, lockOff := 0 }
  | .tracking, false => { c with lockOff := 0 }
  | .unreliable, true => { c with state := .locked, lockOff := 0 }
  | .unreliable, false => { c with state := .tracking, lockOff := 0 }
  | .vacant, _ | .acquiring, _ | .quarantined, _ => c

/-- The anchoring of a model (R19). -/
def ClockHalf.anchored (t : Tuning) (nowT ts : Nat) (m : Int) (lock : Bool) (c : ClockHalf) :
    ClockHalf :=
  ClockHalf.acquire t lock 1
    { c with anchor := some ts, offset := m, drift := 0, uncertainty := t.initialUncertainty,
             generation := c.generation + 1, faults := 0, lockOff := 0, candidate := none,
             lastAccepted := some nowT, lastAged := nowT }

/-- The predicted network time P of a mark (R20): the station time converted, held in range as R9 says of every network time that a formula gives (DEDUCED, log 9). -/
def ClockHalf.predict (c : ClockHalf) (ts : Nat) : Nat := c.convert ts

/-- The drift after an accepted report of residual r at an interval delta (R21). -/
def ClockHalf.driftAfter (t : Tuning) (r : Int) (delta : Nat) (c : ClockHalf) : Int :=
  if 1000000 ≤ delta then
    holdBetween (-200000) 200000
      (c.drift + ((r * 1000000000).tdiv delta).tdiv (2 ^ t.smoothing : Nat))
  else c.drift

/-- The model after an accepted report of residual r (R21), before the report's effect on the clock state. -/
def ClockHalf.accepted (t : Tuning) (nowT ts : Nat) (m r : Int) (c : ClockHalf) : ClockHalf :=
  { c with drift := c.driftAfter t r (ts - c.anchor.getD 0), anchor := some ts, offset := m,
           uncertainty := min (r.natAbs + t.uncertaintyFloor) Config.uncertaintyMax,
           faults := 0, candidate := none, lastAccepted := some nowT, lastAged := nowT }

/-- The clock state after an accepted report or a step: acquisition while ACQUIRING, the lock flag otherwise (R22, R23). -/
def ClockHalf.settle (t : Tuning) (lock : Bool) (n : Nat) (c : ClockHalf) : ClockHalf :=
  if c.state = .acquiring then c.acquire t lock n else c.applyLock t lock

/-- The step candidate after a rejected report that proposes m (R24). -/
def nextCandidate (t : Tuning) (m : Int) : Option StepCandidate → StepCandidate
  | none => { offset := m, confirmations := 1 }
  | some c =>
    if (m - c.offset).natAbs ≤ t.baseGate then
      { offset := m, confirmations := c.confirmations + 1 }
    else { offset := m, confirmations := 1 }

/-- The model stepped to the offset m (R25), before the report's effect on the clock state. -/
def ClockHalf.stepped (t : Tuning) (nowT ts : Nat) (m : Int) (c : ClockHalf) : ClockHalf :=
  { c with anchor := some ts, offset := m, uncertainty := t.initialUncertainty,
           generation := c.generation + 1, faults := 0, candidate := none,
           lastAccepted := some nowT, lastAged := nowT }

/-- Fault action REACQUIRE (R27): the model cleared, ACQUIRING, the generation kept. -/
def ClockHalf.reacquired (nowT : Nat) (c : ClockHalf) : ClockHalf :=
  { c.clearModel with state := .acquiring, lastAged := nowT }

/-- Fault action QUARANTINE (R28): QUARANTINED, the model kept. -/
def ClockHalf.quarantined (c : ClockHalf) : ClockHalf :=
  { c with state := .quarantined, candidate := none, acquisition := 0, lockOff := 0 }

/-- The fault action of a station taken (R26 to R28), the fault count 0. -/
def ClockHalf.faultAction (nowT : Nat) (c : ClockHalf) : ClockHalf :=
  match c.action with
  | .notify => { c with faults := 0 }
  | .reacquire => { c with faults := 0 }.reacquired nowT
  | .quarantine => { c with faults := 0 }.quarantined

/-- A report that misses the gate (R24 to R26): a step when the candidate is confirmed, otherwise one more fault and the fault action at the threshold. -/
def rejectReport (t : Tuning) (nowT ts : Nat) (m : Int) (lock : Bool) (r : Int) (c : ClockHalf) :
    ReportResult :=
  let cand := nextCandidate t m c.candidate
  if t.stepConfirm ≤ cand.confirmations then
    { clk := (c.stepped t nowT ts m).settle t lock 1, code := .stepTaken, residual := some r,
      faulted := false }
  else
    let c1 := { c with candidate := some cand, faults := c.faults + 1 }
    if t.faultThreshold ≤ c1.faults then
      { clk := c1.faultAction nowT, code := .rejected, residual := some r, faulted := true }
    else { clk := c1, code := .rejected, residual := some r, faulted := false }

/-- A report that the refusals of R18 let pass: it anchors the model (R19) or is gated against it (R20). -/
def judgeReport (t : Tuning) (nowT ts tn : Nat) (lock : Bool) (c : ClockHalf) : ReportResult :=
  let m : Int := tn - ts
  if c.state = .acquiring ∧ c.anchor = none then
    { clk := c.anchored t nowT ts m lock, code := .anchored, residual := none, faulted := false }
  else
    let r : Int := tn - c.predict ts
    if r.natAbs ≤ t.baseGate + c.uncertainty then
      { clk := (c.accepted t nowT ts m r).settle t lock (c.acquisition + 1), code := .accepted,
        residual := some r, faulted := false }
    else rejectReport t nowT ts m lock r c

/-- The refusals of R18 that the station's record decides, in order. -/
def reportRefusal (ts tn : Nat) (c : ClockHalf) : Option Code :=
  if c.state = .vacant then some .noStation
  else if c.state = .quarantined then some .quarantinedStation
  else if (c.anchor.map fun a => decide (ts ≤ a)) = some true then some .staleReport
  else if (tn : Int) - ts < -2147483648 ∨ 2147483647 < (tn : Int) - ts then some .offsetRange
  else none

/-- An eligibility-loss notice handed over when a station left LOCKED or TRACKING (R15). -/
def noticeIfLost (k : Slot) (old new : ClockState) (s : State) : State :=
  if old.canBeEligible && !new.canBeEligible then
    { s with notices := s.notices ++ [{ slot := k, status := .absentState }] }
  else s

/-- What a processed report sets off (R15, R16, R29): the causes on the submitting port and the supervisor port, the eligibility-loss notice, and the re-time notice when the generation changed. -/
def applyReport (p : PortId) (k : Slot) (res : ReportResult) (s : State) : State :=
  let old := (station k s).clk
  let s1 := updClk k (fun _ => res.clk) s
  let s2 := if res.code = .stepTaken then raiseWithSup p .stepTaken s1 else s1
  let s3 := if res.faulted then raiseWithSup p .stationFault s2 else s2
  let s4 := if res.clk.state ≠ old.state then raiseWithSup p .stationState s3 else s3
  let s5 := noticeIfLost k old.state res.clk.state s4
  if res.clk.generation ≠ old.generation then retimeNotice k s5 else s5

/-! ## The model aging sweep (R44 to R48) -/

/-- What a START_SWEEP reply reports of a sweep (R49). -/
structure SweepCounts where
  taken : Nat
  grown : Nat
  toTracking : Nat
  toUnreliable : Nat
deriving DecidableEq, Repr

/-- The uncertainty grown by the time since last aged (R45). -/
def ClockHalf.grow (t : Tuning) (nowT : Nat) (c : ClockHalf) : ClockHalf :=
  { c with
    uncertainty := min (c.uncertainty + (nowT - c.lastAged) * t.growth / 1000000000)
      Config.uncertaintyMax
    lastAged := nowT }

/-- Whether a LOCKED station's last accepted report is older than the report age limit (R46). -/
def ClockHalf.tooOld (t : Tuning) (nowT : Nat) (c : ClockHalf) : Bool :=
  c.state == .locked && decide (seconds t.reportAge < nowT - c.lastAccepted.getD 0)

/-- Whether a LOCKED or TRACKING station's uncertainty exceeds the ceiling (R47). -/
def ClockHalf.tooWide (t : Tuning) (c : ClockHalf) : Bool :=
  c.state.canBeEligible && decide (t.ceiling < c.uncertainty)

/-- One taken record of a sweep (R45 to R47); ACQUIRING and QUARANTINED records are not changed (R44). -/
def ClockHalf.age (t : Tuning) (nowT : Nat) (c : ClockHalf) : ClockHalf :=
  if c.state.aged then
    let c1 := c.grow t nowT
    let c2 := if c1.tooOld t nowT then { c1 with state := .tracking, lockOff := 0 } else c1
    if c2.tooWide t then { c2 with state := .unreliable, lockOff := 0 } else c2
  else c

/-- The slots that a sweep takes, in order (R44): the non-VACANT ones upward from the cursor, at most K. -/
def sweepSlots (s : State) : List Slot :=
  (((List.finRange 64).map (s.sweep.cursor + ·)).filter fun k =>
    (station k s).clk.state != .vacant).take (tuning s).sweepK

/-- One record taken by a sweep, with its cause and notice (R45 to R48). -/
def sweepOne (s : State) (k : Slot) : State :=
  let old := (station k s).clk
  let new := old.age (tuning s) (now s)
  let s1 := updClk k (fun _ => new) s
  let s2 := if new.state ≠ old.state then raiseSup .stationState s1 else s1
  noticeIfLost k old.state new.state s2

/-- A sweep (R44 to R48). -/
def sweep (s : State) : State :=
  let taken := sweepSlots s
  let s1 := taken.foldl sweepOne s
  match taken.getLast? with
  | some k => { s1 with sweep := { s1.sweep with cursor := k + 1 } }
  | none => s1

/-- The counts of the sweep that would be made in a state (R49). Every taken LOCKED, TRACKING or UNRELIABLE record counts as grown, also where the truncated growth is 0 or the uncertainty is saturated (DESIGN CHOICE, log 28). -/
def sweepCounts (s : State) : SweepCounts :=
  let clks := (sweepSlots s).map fun k => (station k s).clk
  let t := tuning s
  { taken := clks.length
    grown := (clks.filter fun c => c.state.aged).length
    toTracking := (clks.filter fun c => c.state.aged && (c.grow t (now s)).tooOld t (now s)).length
    toUnreliable := (clks.filter fun c =>
      c.state != .unreliable && (c.age t (now s)).state == .unreliable).length }

/-! ## The pulse count (R42) -/

/-- A sweep when the pulse count has reached N under PULSE, and the count 0 (R42). -/
def sweepAtPulses (s : State) : State :=
  if (tuning s).trigger = .pulse ∧ (tuning s).sweepN ≤ s.sweep.pulses then
    sweep { s with sweep := { s.sweep with pulses := 0 } }
  else s

/-- A PPS edge handed to the Clock Model Unit (R5, R42): it counts under PULSE only. -/
def countPulse (s : State) : State :=
  if (tuning s).trigger = .pulse then
    sweepAtPulses { s with sweep := { s.sweep with pulses := s.sweep.pulses + 1 } }
  else s

end Sys2Proof.Machine
end

