-- ==== Sys2Proof/Machine/Models.lean ====
section
/-! DEFINITION. The Clock Model Unit's commands: the grants of SUBMIT_REPORT (R17, R18), CONVERT (R31), READ_STATION (R32, R79), RELEASE_STATION (R36) and START_SWEEP (R49), and the sweeps of the triggers (R41, R42). -/

namespace Sys2Proof.Machine

/-! ## SUBMIT_REPORT -/

/-- A residual as a reply gives it, held in 32 bits (R17). -/
def heldResidual (r : Int) : Int := holdBetween (-2147483648) 2147483647 r

/-- The fields that every SUBMIT_REPORT reply carries (R17), from the clock half after the report. -/
def reportData (slot : Byte) (c : ClockHalf) (residual : Option Int) : List Field :=
  [.num 1 slot.toNat, .num 1 c.state.num, .num 2 c.generation.toNat,
    .optInt 4 (residual.map heldResidual), .num 1 c.faults,
    .num 1 ((c.candidate.map (·.confirmations)).getD 0)]

/-- The mark that a REJECTED reply adds: whether the fault action was taken (R17). -/
def rejectedMark (res : ReportResult) : List Field :=
  if res.code = .rejected then [.bit res.faulted] else []

/-- SUBMIT_REPORT at its grant (R18 to R29). A slot above 63 has no record, and its fields read as those of a VACANT one (log 12). -/
def submitReportOwner (q : PortId) (r : ReportReq) (s : State) : Answer :=
  match slotOf r.slot with
  | none => refuse .badRequest s (reportData r.slot .vacant none ++ [.num 1 0])
  | some k =>
    let c := (station k s).clk
    match reportRefusal r.ts.toNat r.tn.toNat c with
    | some code => refuse code s (reportData r.slot c none)
    | none =>
      let res := judgeReport (tuning s) (now s) r.ts.toNat r.tn.toNat (r.lock != 0) c
      { st := applyReport q k res s, code := res.code
        data := reportData r.slot res.clk res.residual ++ rejectedMark res }

/-- Selects a SUBMIT_REPORT. -/
def asSubmitReport : ServiceReq → Option ReportReq
  | .submitReport r => some r
  | _ => none

/-- SUBMIT_REPORT_GRANT (R17, R18). -/
def execSubmitReportGrant (s : State) : Host.Outcome State Fault Refusal :=
  .next (tryQuiesceGrant (grantHead asSubmitReport submitReportOwner s))

/-! ## CONVERT -/

/-- CONVERT at its grant (R31). -/
def convertOwner (u : Urgent) (s : State) : Answer :=
  match slotOf u.slot with
  | none => refuse .badRequest s [.num 1 0]
  | some k =>
    let c := (station k s).clk
    if c.state = .vacant then refuse .noStation s
    else if c.anchor = none then refuse .noModel s
    else
      { st := s, code := .done
        data := [.num 7 (c.convert u.time.toNat), .num 4 c.uncertainty, .num 2 c.generation.toNat,
          .num 1 c.state.num, .bit (station k s).retiming] }

/-- CONVERT_GRANT (R31, R166). -/
def execConvertGrant (s : State) : Host.Outcome State Fault Refusal :=
  .next (grantUrgent convertOwner s)

/-! ## READ_STATION -/

/-- A station's place in the re-time queue, or the mark that it is running or not queued (R115). -/
def retimePlace (k : Slot) (s : State) : Field :=
  if (s.retime.running.map (·.slot)) = some k then .num 1 Config.retimeRunning.toNat
  else if k ∈ s.retime.queue then .num 1 (s.retime.queue.idxOf k + 1)
  else .num 1 Config.retimeNotQueued.toNat

/-- The last re-time report or an absent mark (R115, R122): one presence byte before the whole report. -/
def retimeReportData (r : Option RetimeReport) : List Field :=
  let c := ((r.map (·.counts)).getD .zero)
  [.optNum 2 (r.map (·.target.toNat)), .num 2 c.moved, .num 2 c.updated, .num 2 c.carried,
    .num 2 c.misplaced, .num 2 c.skipped, .num 2 c.leftInSealed,
    .num 1 ((r.map (·.restarts)).getD 0), .num 7 ((r.map (·.time)).getD 0)]

/-- The clock half of a READ_STATION reply (R32), to the last re-time report. -/
def clockData (k : Slot) (s : State) : List Field :=
  let c := (station k s).clk
  [.num 2 c.code, .num 1 c.zone.val, .num 1 c.action.num, .num 1 c.state.num, .optNum 7 c.anchor,
    .int 4 c.offset, .int 4 c.drift, .num 4 c.uncertainty, .num 2 c.generation.toNat,
    .num 1 c.acquisition, .num 1 c.lockOff, .num 1 c.faults,
    .optInt 4 (c.candidate.map (·.offset)), .num 1 ((c.candidate.map (·.confirmations)).getD 0),
    .optNum 7 c.lastAccepted, .num 7 c.lastAged, .bit (eligible k s),
    .bit (station k s).retiming, retimePlace k s] ++ retimeReportData (station k s).lastReport

/-- The 64 history marks in order of distance (R79). -/
def SeqHalf.marks (q : SeqHalf) : List Bool :=
  (List.range 64).map fun i => q.history.getLsbD i

/-- The sequencing half of a READ_STATION reply (R79, R32). -/
def sequencingData (k : Slot) (s : State) : List Field :=
  let q := (station k s).sq
  [.num 1 q.depth, .optNum 2 (q.expected.map (·.toNat)), .marks q.marks, .num 1 q.held.length] ++
    q.held.map (fun i => .num 2 (((block i s).map fun b => b.seq.toNat).getD 0)) ++
    [.optNum 7 q.heldSince, .optNum 7 q.lastEnd, .optNum 7 q.deliveredUntil, .num 2 q.discarded,
      .num 7 q.lastArrival, .num 7 q.silenceMark, .num 7 s.silenceClock, .bit q.silent]

/-- A field as it is written when it is absent: zeros of its full width (R176). -/
def Field.zero : Field → Field
  | .num n _ => .num n 0
  | .int n _ => .int n 0
  | .bit _ => .bit false
  | .optNum n _ => .optNum n none
  | .optInt n _ => .optInt n none
  | .marks l => .marks (l.map fun _ => false)
  | .flags l => .flags (l.map fun _ => false)
  | .nibbles l => .nibbles (l.map fun _ => 0)

/-- READ_STATION at its grant (R32): a VACANT slot answers with clock state VACANT, code 0, and every other field absent (log 12). -/
def readStationOwner (_q : PortId) (slot : Byte) (s : State) : Answer :=
  match slotOf slot with
  | none => refuse .badRequest s [.num 1 0]
  | some k =>
    let data := clockData k s ++ sequencingData k s
    { st := s, code := .done
      data := if (station k s).clk.state = .vacant then data.map Field.zero else data }

/-- Selects a READ_STATION. -/
def asReadStation : ServiceReq → Option Byte
  | .readStation k => some k
  | _ => none

/-- READ_STATION_GRANT (R32). -/
def execReadStationGrant (s : State) : Host.Outcome State Fault Refusal :=
  .next (grantHead asReadStation readStationOwner s)

/-! ## RELEASE_STATION -/

/-- A released station (R36): ACQUIRING, the model cleared, the generation kept, last aged now. -/
def ClockHalf.released (t : Nat) (c : ClockHalf) : ClockHalf :=
  { c.clearModel with state := .acquiring, lastAged := t }

/-- RELEASE_STATION at its grant, for the supervisor (R36). -/
def releaseStationOwner (slot : Byte) (s : State) : Answer :=
  match slotOf slot with
  | none => refuse .badRequest s [.num 1 0]
  | some k =>
    match (station k s).clk.state with
    | .vacant => refuse .noStation s
    | .quarantined => { st := updClk k (·.released (now s)) s, code := .done, data := [] }
    | .acquiring | .locked | .tracking | .unreliable => refuse .wrongState s

/-- Selects a RELEASE_STATION. -/
def asReleaseStation : ServiceReq → Option Byte
  | .releaseStation k => some k
  | _ => none

/-- RELEASE_STATION_GRANT (R36, R155). -/
def execReleaseStationGrant (s : State) : Host.Outcome State Fault Refusal :=
  .next (grantHead asReleaseStation
    (fun q k => ifSupervisor q (releaseStationOwner k)) s)

/-! ## Sweeps -/

/-- START_SWEEP at its grant, for the supervisor (R49). -/
def startSweepOwner (s : State) : Answer :=
  let n := sweepCounts s
  let s1 := sweep s
  { st := s1, code := .done
    data := [.num 1 n.taken, .num 1 n.grown, .num 1 n.toTracking, .num 1 n.toUnreliable,
      .num 1 s1.sweep.cursor.val] }

/-- Selects a START_SWEEP. -/
def asStartSweep : ServiceReq → Option Unit
  | .startSweep => some ()
  | _ => none

/-- START_SWEEP_GRANT (R49, R155). -/
def execStartSweepGrant (s : State) : Host.Outcome State Fault Refusal :=
  .next (grantHead asStartSweep (fun q _ => ifSupervisor q startSweepOwner) s)

/-- INTERVAL_DEADLINE (R41): a sweep, and the next deadline reckoned from now. -/
def execIntervalDeadline (s : State) : Host.Outcome State Fault Refusal :=
  if due s s.sweep.deadline then
    let s1 := sweep s
    .next { s1 with sweep := { s1.sweep with
      deadline := some (holdTime (now s + seconds (tuning s).sweepN : Nat)) } }
  else .next s

/-- PULSE_COUNT_REACHED (R42). The sweep is made at the PPS edge itself, so in every state that a run reaches no count stands at N (log 4). -/
def execPulseCountReached (s : State) : Host.Outcome State Fault Refusal := .next (sweepAtPulses s)

end Sys2Proof.Machine
end

