-- ==== Sys2Proof/Machine/NetReset.lean ====
section
/-! DEFINITION. The network reset: the grant of NETWORK_RESET and its effects by owner (R157, Table 9-2). -/

namespace Sys2Proof.Machine

/-- The clock half after a network reset (R37): ACQUIRING, the model cleared, generation 0, last aged now. -/
def ClockHalf.networkReset (t : Nat) (c : ClockHalf) : ClockHalf :=
  { c.clearModel with state := .acquiring, generation := 0, lastAged := t }

/-- The sequencing half after a network reset (R78, R51): the reorder depth is kept. -/
def SeqHalf.networkReset (t clock : Nat) (q : SeqHalf) : SeqHalf :=
  { SeqHalf.vacant with depth := q.depth, lastArrival := t, silenceMark := clock }

/-- A station record after a network reset (R37, R78, R126); a VACANT record is unchanged but for its re-time flag and report, which are clear already. -/
def Station.networkReset (t clock : Nat) (st : Station) : Station :=
  if st.clk.state = .vacant then { st with retiming := false, lastReport := none }
  else { clk := st.clk.networkReset t, sq := st.sq.networkReset t clock, retiming := false,
         lastReport := none }

/-- The requests of a port answered ABORTED (R169): the urgent slot first, then the queue from its head, each into its reserved place. -/
def PortState.abort (p : PortState) : PortState :=
  let urgent := p.urgent.toList.map fun u => OutFrame.reply u.tag 10 .aborted []
  let queue := p.queue.map fun q => OutFrame.reply q.tag (reqKind q.req) .aborted []
  let n := urgent.length + queue.length
  { p with out := p.out ++ urgent ++ queue, reservations := p.reservations - n,
           inFlight := p.inFlight - n, queue := [], urgent := none, age := 0, guards := 0,
           overdue := false }

/-- The effects of a network reset (Table 9-2), before the taking of a committed set. -/
def resetNetwork (q : PortId) (s : State) : State :=
  raiseAll .networkResetDone
    { s with
      stations := imap (fun _ st => st.networkReset (now s) s.silenceClock) s.stations
      pool := .empty
      ring := .empty
      retime := { queue := [], running := none }
      groups := imap (fun _ _ => .detached) s.groups
      ports := imap (fun p ps => if p = q then ps else ps.abort) s.ports
      notices := [] }

/-- NETWORK_RESET at its grant, for the supervisor (R157). -/
def networkResetOwner (q : PortId) (s : State) : Answer :=
  if s.sup.quiesce = .running then
    { st := takeTuning (resetNetwork q s), code := .done, data := [] }
  else refuse .wrongState s

/-- Selects a NETWORK_RESET. -/
def asNetworkReset : ServiceReq → Option Unit
  | .networkReset => some ()
  | _ => none

/-- NETWORK_RESET_GRANT (R157, R155). -/
def execNetworkResetGrant (s : State) : Host.Outcome State Fault Refusal :=
  .next (grantHead asNetworkReset (fun q _ => ifSupervisor q (networkResetOwner q)) s)

end Sys2Proof.Machine
end

