-- ==== Sys2Proof/Machine/Requests.lean ====
section
/-! DEFINITION. The requests that wait for the service path, as their port takes them (R161 to R165, Table 10-1). -/

namespace Sys2Proof.Machine

/-- SUBMIT_BLOCK taken (R59, R165). -/
def execSubmitBlock (x : Xfer) (b : BlockReq) (s : State) : Host.Outcome State Fault Refusal :=
  .next (intakeService x (.submitBlock b) s)

/-- SUBMIT_REPORT taken (R17, R165). -/
def execSubmitReport (x : Xfer) (r : ReportReq) (s : State) : Host.Outcome State Fault Refusal :=
  .next (intakeService x (.submitReport r) s)

/-- ZONE_FLUSHED taken (R107, R165). -/
def execZoneFlushed (x : Xfer) (zone : Byte) (t : BitVec 56) (s : State) :
    Host.Outcome State Fault Refusal :=
  .next (intakeService x (.zoneFlushed zone t) s)

/-- ATTACH taken (R128, R165). -/
def execAttach (x : Xfer) (g : Byte) (s : State) : Host.Outcome State Fault Refusal :=
  .next (intakeService x (.attach g) s)

/-- DETACH taken (R128, R165). -/
def execDetach (x : Xfer) (g : Byte) (s : State) : Host.Outcome State Fault Refusal :=
  .next (intakeService x (.detach g) s)

/-- FETCH_EPOCH taken (R128, R165). -/
def execFetchEpoch (x : Xfer) (g : Byte) (s : State) : Host.Outcome State Fault Refusal :=
  .next (intakeService x (.fetchEpoch g) s)

/-- FETCH_PAGE taken (R128, R165). -/
def execFetchPage (x : Xfer) (g : Byte) (n : BitVec 32) (page : BitVec 16) (s : State) :
    Host.Outcome State Fault Refusal :=
  .next (intakeService x (.fetchPage g n page) s)

/-- ACK_EPOCH taken (R128, R165). -/
def execAckEpoch (x : Xfer) (g : Byte) (n : BitVec 32) (s : State) :
    Host.Outcome State Fault Refusal :=
  .next (intakeService x (.ackEpoch g n) s)

/-- READ_STATION taken (R32, R165). -/
def execReadStation (x : Xfer) (k : Byte) (s : State) : Host.Outcome State Fault Refusal :=
  .next (intakeService x (.readStation k) s)

/-- CONVERT taken into the urgent slot (R31, R165). -/
def execConvert (x : Xfer) (k : Byte) (t : BitVec 56) (s : State) :
    Host.Outcome State Fault Refusal :=
  .next (intakeConvert x k t s)

/-- START_RING taken (R81, R165). -/
def execStartRing (x : Xfer) (origin : BitVec 56) (length : Byte) (s : State) :
    Host.Outcome State Fault Refusal :=
  .next (intakeService x (.startRing origin length) s)

/-- NETWORK_RESET taken (R157, R165). -/
def execNetworkReset (x : Xfer) (s : State) : Host.Outcome State Fault Refusal :=
  .next (intakeService x .networkReset s)

/-- QUIESCE_END(APPLY) taken (R150, R165). -/
def execQuiesceEndApply (x : Xfer) (s : State) : Host.Outcome State Fault Refusal :=
  .next (intakeService x .quiesceEndApply s)

/-- RELEASE_STATION taken (R36, R165). -/
def execReleaseStation (x : Xfer) (k : Byte) (s : State) : Host.Outcome State Fault Refusal :=
  .next (intakeService x (.releaseStation k) s)

/-- START_SWEEP taken (R49, R165). -/
def execStartSweep (x : Xfer) (s : State) : Host.Outcome State Fault Refusal :=
  .next (intakeService x .startSweep s)

end Sys2Proof.Machine
end

