-- ==== Sys2Proof/Machine/Shape.lean ====
section
/-! DEFINITION. The application of a shape set: the grant of QUIESCE_END(APPLY) (R150), what each item does (R33 to R35, R76, R77, R151, R152), and the validation before it. -/

namespace Sys2Proof.Machine

/-! ## Validation (R150) -/

/-- The station code of each slot in use, none for a VACANT slot. -/
abbrev Occupancy := Vector (Option Nat) 64

/-- The station table as validation reads it. -/
def occupancy (s : State) : Occupancy :=
  imap (fun _ st => if st.clk.state = .vacant then none else some st.clk.code) s.stations

/-- One item against the table as the items before it leave it: the table after it, or why it is invalid. An ADD_STATION whose slot and whose code are both in use is invalid for its slot (DESIGN CHOICE, log 20). -/
def checkItem (o : Occupancy) : ShapeItem → Except Config.ShapeReason Occupancy
  | .addStation k code _ _ _ =>
    if o[k].isSome then .error .slotInUse
    else if o.toList.any (fun c => c == some code) then .error .codeInUse
    else .ok (put o k (some code))
  | .removeStation k => if o[k].isSome then .ok (put o k none) else .error .slotVacant
  | .setStation k _ _ _ => if o[k].isSome then .ok o else .error .slotVacant
  | .setZone _ _ => .ok o

/-- The first invalid item of a set, by its index, with the reason. -/
def firstInvalid : Nat → Occupancy → List ShapeItem → Option (Nat × Config.ShapeReason)
  | _, _, [] => none
  | n, o, i :: l =>
    match checkItem o i with
    | .error e => some (n, e)
    | .ok o1 => firstInvalid (n + 1) o1 l

/-! ## Station items -/

/-- The clock half of an added station (R33). -/
def ClockHalf.added (code : Nat) (z : ZoneId) (action : FaultAction) (t : Nat) : ClockHalf :=
  { ClockHalf.vacant with code := code, zone := z, action := action, state := .acquiring,
                          lastAged := t }

/-- The sequencing half of an added station (R76, R51). -/
def SeqHalf.added (depth t clock : Nat) : SeqHalf :=
  { SeqHalf.vacant with depth := depth, lastArrival := t, silenceMark := clock }

/-- An applied ADD_STATION (R33, R76, R115). -/
def applyAdd (k : Slot) (code : Nat) (z : ZoneId) (depth : Nat) (action : FaultAction)
    (s : State) : State :=
  updStation k (fun st => { st with clk := .added code z action (now s)
                                    sq := .added depth (now s) s.silenceClock
                                    lastReport := none }) s

/-- An applied REMOVE_STATION (R35, R76, R115): held blocks freed in ascending order, a LOCKED or TRACKING station marked ABSENT_REMOVED where it is WAITING (R151, log 5), the record VACANT. -/
def applyRemove (k : Slot) (s : State) : State :=
  let st := station k s
  let s1 := freeBlocks st.sq.held s
  let s2 := if st.clk.state.canBeEligible then
      updRecords (fun r => if r.isOpen then
        { r with entries := put r.entries k (r.entries[k].giveUp .absentRemoved) } else r) s1
    else s1
  updStation k (fun st => { st with clk := .vacant, sq := .vacant, lastReport := none }) s2

/-- A zone deadline that has passed in a record, expired at its nominal value when it was not expired already (R151). -/
def ZoneWait.passAt (nominal : Nat) (w : ZoneWait) : ZoneWait :=
  match w.deadline with
  | .expired _ => w
  | .pending _ | .absent => { w with deadline := .expired nominal }

/-- What a change of station k to zone b does in one record (R151). -/
def moveZoneRecord (k : Slot) (b : ZoneId) (s : State) (r : Record) : Record :=
  if r.isOpen && r.ended && r.entries[k].status == .waiting then
    let ze := zoneEntry b s
    let lost := put r.entries k { r.entries[k] with status := .absentTimeout }
    match ze.deadlineFrom (s.ring.epochEnd r.epoch) 0 with
    | none => { r with entries := lost }
    | some nominal =>
      let (passed, r1) := judgeDeadline b s r
      if passed then { r with entries := lost, zones := put r.zones b (r.zones[b].passAt nominal) }
      else r1
  else r

/-- A station's list brought to its new depth (R77, R75). -/
def settleDepth (k : Slot) (s : State) : State :=
  if (station k s).clk.state.frozen then
    if (station k s).sq.depth < (station k s).sq.held.length then discardToDepth k s else s
  else giveUpToDepth k (station k s).sq.held.length s

/-- An applied SET_STATION (R34, R151, R77): the configuration, the entries of a changed zone, then the depth (log 15). -/
def applySet (k : Slot) (z : ZoneId) (depth : Nat) (action : FaultAction) (s : State) : State :=
  let old := (station k s).clk.zone
  let s1 := updClk k (fun c => { c with zone := z, action := action }) s
  let s2 := if old = z then s1 else updRecords (moveZoneRecord k z s1) s1
  settleDepth k (updSeq k (fun q => { q with depth := depth }) s2)

/-! ## Zone items (R152) -/

/-- A zone deadline made expired when its zone becomes NO_WAIT (R152): a pending one keeps the value it had (log 16), an absent one takes the value given, and an expired one stays. -/
def ZoneWait.endWait (v : Nat) (w : ZoneWait) : ZoneWait :=
  match w.deadline with
  | .pending t => { w with deadline := .expired t }
  | .absent => { w with deadline := .expired v }
  | .expired _ => w

/-- A record whose end event has occurred, after its zone z has become NO_WAIT (R152): the zone's WAITING stations become ABSENT_TIMEOUT and the deadline becomes expired; the value of one that was absent is free (log 13). -/
def closeZone (z : ZoneId) (s : State) (r : Record) : Record :=
  { giveUpZone z .absentTimeout s r with
    zones := put r.zones z (r.zones[z].endWait (Config.noWaitExpiry r.epoch z.val (now s))) }

/-- What an applied SET_ZONE does in one record, with the zone table as it stands after the replacement (R152): a pending deadline is recomputed, and expires when it has passed; a zone that waits no more gives its stations up and its deadline becomes expired. -/
def rezoneRecord (z : ZoneId) (s : State) (r : Record) : Record :=
  if r.isOpen && r.ended then
    match (zoneEntry z s).deadlineFrom (s.ring.epochEnd r.epoch) r.zones[z].extension with
    | none => closeZone z s r
    | some t =>
      match r.zones[z].deadline with
      | .pending _ =>
        let r1 := { r with zones := put r.zones z { r.zones[z] with deadline := .pending t } }
        if t ≤ now s then expireZone z s r1 else r1
      | .absent | .expired _ => r
  else r

/-- An applied SET_ZONE (R152). -/
def applyZone (z : ZoneId) (e : ZoneEntry) (s : State) : State :=
  let s1 := updSup (fun v => { v with zones := put v.zones z e }) s
  updRecords (rezoneRecord z s1) s1

/-! ## The application -/

/-- One item applied (R151, R152). -/
def applyItem (s : State) : ShapeItem → State
  | .addStation k code z depth action => applyAdd k code z depth action s
  | .removeStation k => applyRemove k s
  | .setStation k z depth action => applySet k z depth action s
  | .setZone z e => applyZone z e s

/-- A valid set applied in staging order (R150 to R152): then the seal test in every record that the application changed, and the end of the quiesce. -/
def applyShape (items : List ShapeItem) (s : State) : State :=
  updSup (·.endQuiesce) (sealChanged s.ring.records (items.foldl applyItem s))

/-- QUIESCE_END(APPLY) at its grant, for the supervisor (R150). -/
def applyOwner (s : State) : Answer :=
  match s.sup.quiesce with
  | .quiesced _ =>
    match firstInvalid 1 (occupancy s) s.sup.staged with
    | some (n, e) =>
      { st := updSup (fun v => { v with staged := [] }) s, code := .shapeInvalid
        data := [.num 1 n, .num 1 (Config.shapeReason e).toNat] }
    | none =>
      { st := applyShape s.sup.staged s, code := .done, data := [.num 1 s.sup.staged.length] }
  | .running | .quiescing _ => refuse .wrongState s

/-- Selects a QUIESCE_END(APPLY). -/
def asQuiesceEndApply : ServiceReq → Option Unit
  | .quiesceEndApply => some ()
  | _ => none

/-- QUIESCE_END_APPLY_GRANT (R150 to R152, R155), the tuning taken with a seal after it (R114). -/
def execQuiesceEndApplyGrant (s : State) : Host.Outcome State Fault Refusal :=
  .next (finishSeals (grantHead asQuiesceEndApply (fun q _ => ifSupervisor q applyOwner) s))

end Sys2Proof.Machine
end

