-- ==== Sys2Proof/Machine/Supervise.lean ====
section
/-! DEFINITION. The Supervision Unit's direct requests and timer events (R140 to R149, R153, R154, R156). -/

namespace Sys2Proof.Machine

/-! ## The role and check-in -/

/-- The role granted (R140): the error counter 0, the challenge seeded, the first window from now. -/
def grantRole (p : PortId) (seed : BitVec 16) (s : State) : State :=
  updSup (fun v => { v with
    role := some { port := p, challenge := if seed = 0 then 0xACE1#16 else seed,
                   windowStart := now s, windowLength := windowLength s }
    errors := 0 }) s

/-- CLAIM_SUPERVISOR as the Supervision Unit judges it (R140). -/
def claimOwner (p : PortId) (seed : BitVec 16) (s : State) : Answer :=
  match s.sup.role with
  | none =>
    { st := grantRole p seed s, code := .done
      data := [.num 2 (if seed = 0 then 0xACE1#16 else seed).toNat, .num 3 (windowLength s),
        .num 1 (tuning s).checkinThreshold] }
  | some h =>
    if h.port = p then refuse .already s
    else { st := raiseSup .contender s, code := .held, data := [.num 1 h.port.val] }

/-- CLAIM_SUPERVISOR (R140). -/
def execClaimSupervisor (x : Xfer) (seed : BitVec 16) (s : State) :
    Host.Outcome State Fault Refusal :=
  .next (intakeDirect x 16 .supervise false (claimOwner x.port seed) s)

/-- RELEASE_SUPERVISOR (R141). -/
def execReleaseSupervisor (x : Xfer) (s : State) : Host.Outcome State Fault Refusal :=
  .next (intakeDirect x 17 .supervise false
    (ifSupervisor x.port fun s => { st := releaseRole s, code := .done, data := [] }) s)

/-- Whether the present window is CLOSED (R142): until the truncated half of its length has passed. -/
def windowClosed (h : Holder) (s : State) : Bool :=
  decide (elapsed s h.windowStart < h.windowLength / 2)

/-- What a CHECK_IN reply carries (R144), from the state after the check-in and before a lapse. -/
def checkInData (s : State) : List Field :=
  [.num 1 s.sup.errors, .num 2 ((s.sup.role.map fun h => h.challenge.toNat).getD 0),
    .num 3 (windowLength s), .num 3 (windowLength s / 2)]

/-- The answer to a check-in in error (R144, R145): the error counted, a new window, the reply before the lapse it may cause. -/
def checkInError (code : Code) (s : State) : Answer :=
  let s1 := startWindow (countError s)
  { st := lapseIfDue s1, code := code, data := checkInData s1 }

/-- A good check-in (R143, R144): one error worked off, the challenge advanced, a new window. -/
def goodCheckIn (s : State) : State :=
  startWindow (updSup (fun v => { v with
    errors := v.errors - 1
    role := v.role.map fun h => { h with challenge := advanceChallenge h.challenge } }) s)

/-- CHECK_IN as it is judged (R144); a window whose end now has passed while its miss is still to come is OPEN (log 26). -/
def checkInOwner (p : PortId) (response : BitVec 16) (s : State) : Answer :=
  match s.sup.role with
  | none => refuse .notSupervisor s
  | some h =>
    if h.port ≠ p then refuse .notSupervisor s
    else if windowClosed h s then checkInError .early s
    else if goodResponse h.challenge response s.ring.releaseCount then
      { st := goodCheckIn s, code := .done, data := checkInData (goodCheckIn s) }
    else checkInError .wrong s

/-- CHECK_IN (R144). -/
def execCheckIn (x : Xfer) (response : BitVec 16) (s : State) :
    Host.Outcome State Fault Refusal :=
  .next (intakeDirect x 18 .supervise false (checkInOwner x.port response) s)

/-- Whether the present window has ended: its end is a deadline, held in range (R9, R142). -/
def missDue (s : State) : Bool :=
  match s.sup.role with
  | some h => decide (holdTime (h.windowStart + h.windowLength : Nat) ≤ now s)
  | none => false

/-- CHECKIN_MISS (R142, R145). -/
def execCheckinMiss (s : State) : Host.Outcome State Fault Refusal :=
  .next (if missDue s then lapseIfDue (startWindow (countError s)) else s)

/-! ## Quiesce -/

/-- The hold that a QUIESCE_REQUEST asks for, in seconds (R146). -/
def holdSeconds (hold : Byte) : Nat := if hold.toNat = 0 then 30 else hold.toNat

/-- QUIESCE_REQUEST of the supervisor (R146): QUIESCING, and QUIESCED at once when nothing is in the way (R147). -/
def quiesceRequestOwner (hold : Byte) (s : State) : Answer :=
  if s.sup.quiesce = .running then
    let s1 := tryQuiesceGrant (updSup (fun v => { v with quiesce := .quiescing (holdSeconds hold) }) s)
    { st := s1, code := .done, data := [.num 1 s1.sup.quiesce.num] }
  else refuse .wrongState s

/-- QUIESCE_REQUEST (R146). -/
def execQuiesceRequest (x : Xfer) (hold : Byte) (s : State) : Host.Outcome State Fault Refusal :=
  .next (intakeDirect x 19 .supervise false (ifSupervisor x.port (quiesceRequestOwner hold)) s)

/-- QUIESCE_GRANT (R147). The grant is made in the event that makes both its conditions hold, so in every state that a run reaches nothing is left to grant (log 4). -/
def execQuiesceGrant (s : State) : Host.Outcome State Fault Refusal := .next (tryQuiesceGrant s)

/-- QUIESCE_END(DISCARD) of the supervisor (R148). -/
def discardOwner (s : State) : Answer :=
  if s.sup.quiesce = .running then refuse .wrongState s
  else { st := updSup (·.endQuiesce) s, code := .done, data := [.num 1 s.sup.staged.length] }

/-- QUIESCE_END_DISCARD (R148). -/
def execQuiesceEndDiscard (x : Xfer) (s : State) : Host.Outcome State Fault Refusal :=
  .next (intakeDirect x 20 .supervise false (ifSupervisor x.port discardOwner) s)

/-- Whether the hold deadline has been reached while QUIESCED (R148). -/
def quiesceHoldDue (s : State) : Bool :=
  match s.sup.quiesce with
  | .quiesced d => decide (d ≤ now s)
  | _ => false

/-- QUIESCE_HOLD_EXPIRY (R148). -/
def execQuiesceHoldExpiry (s : State) : Host.Outcome State Fault Refusal :=
  .next (if quiesceHoldDue s then raiseSup .quiesceExpired (updSup (·.endQuiesce) s) else s)

/-! ## Staging -/

/-- Whether the quiesce state is QUIESCED. -/
def Quiesce.isQuiesced : Quiesce → Bool
  | .quiesced _ => true
  | _ => false

/-- STAGE_SHAPE of the supervisor (R149), its refusals in order. -/
def stageShapeOwner (item : RawItem) (s : State) : Answer :=
  if !s.sup.quiesce.isQuiesced then refuse .wrongState s
  else
    match parseShape item with
    | .error o => refuse .badRequest s [.num 1 o]
    | .ok i =>
      if Config.stagedItems ≤ s.sup.staged.length then refuse .stageFull s
      else
        { st := updSup (fun v => { v with staged := v.staged ++ [i] }) s, code := .done
          data := [.num 1 (s.sup.staged.length + 1)] }

/-- STAGE_SHAPE (R149). -/
def execStageShape (x : Xfer) (item : RawItem) (s : State) : Host.Outcome State Fault Refusal :=
  .next (intakeDirect x 21 .supervise false (ifSupervisor x.port (stageShapeOwner item)) s)

/-- The copy that a STAGE_TUNING changes (R153): the staged copy, else the committed set, else the active set. -/
def Supervision.stagingBase (v : Supervision) : Tuning :=
  match v.stagedTuning, v.committed with
  | some t, _ => t
  | none, some t => t
  | none, none => v.active

/-- STAGE_TUNING of the supervisor (R153). -/
def stageTuningOwner (item : Byte) (value : BitVec 32) (s : State) : Answer :=
  match tuningRange item.toNat with
  | none => refuse .badRequest s [.num 1 0]
  | some (lo, hi) =>
    if value.toNat < lo ∨ hi < value.toNat then refuse .badRequest s [.num 1 1]
    else
      { st := updSup (fun v => { v with
          stagedTuning := some (v.stagingBase.put item.toNat value.toNat) }) s
        code := .done, data := [] }

/-- STAGE_TUNING (R153). -/
def execStageTuning (x : Xfer) (item : Byte) (value : BitVec 32) (s : State) :
    Host.Outcome State Fault Refusal :=
  .next (intakeDirect x 22 .supervise false (ifSupervisor x.port (stageTuningOwner item value)) s)

/-- COMMIT_TUNING of the supervisor (R154). -/
def commitTuningOwner (s : State) : Answer :=
  match s.sup.stagedTuning with
  | none => refuse .wrongState s
  | some t =>
    let s1 := updSup (fun v => { v with committed := some t, stagedTuning := none }) s
    match s.ring.state with
    | .stopped => { st := takeTuning s1, code := .done, data := [.bit true] }
    | .active => { st := s1, code := .done, data := [.bit false] }

/-- COMMIT_TUNING (R154). -/
def execCommitTuning (x : Xfer) (s : State) : Host.Outcome State Fault Refusal :=
  .next (intakeDirect x 23 .supervise false (ifSupervisor x.port commitTuningOwner) s)

/-- DISCARD_TUNING of the supervisor (R153). -/
def discardTuningOwner (s : State) : Answer :=
  if s.sup.stagedTuning = none then refuse .wrongState s
  else { st := updSup (fun v => { v with stagedTuning := none }) s, code := .done, data := [] }

/-- DISCARD_TUNING (R153). -/
def execDiscardTuning (x : Xfer) (s : State) : Host.Outcome State Fault Refusal :=
  .next (intakeDirect x 24 .supervise false (ifSupervisor x.port discardTuningOwner) s)

/-! ## Rights -/

/-- SET_RIGHTS of the supervisor on port q (R156). -/
def setRightsOwner (q : PortId) (r : RightsReq) (s : State) : Answer :=
  match parseRights r with
  | .error o => refuse .badRequest s [.num 1 o]
  | .ok (p, e) =>
    if p = q then refuse .selfTarget s
    else { st := updSup (fun v => { v with rights := put v.rights p e }) s, code := .done, data := [] }

/-- SET_RIGHTS (R156). -/
def execSetRights (x : Xfer) (r : RightsReq) (s : State) : Host.Outcome State Fault Refusal :=
  .next (intakeDirect x 26 .supervise false (ifSupervisor x.port (setRightsOwner x.port r)) s)

end Sys2Proof.Machine
end

