-- ==== Sys2Proof/Machine/TimeBase.lean ====
section
/-! DEFINITION. The Time Base: power-on, the two clock sources (R1 to R3), the counter's advance (R1, R50), the PPS check (R5), and the requests SET_TIME and READ_TIME (R6, R7). -/

namespace Sys2Proof.Machine

/-- now stepped to a value, the silence clock by the same amount while the quiesce state is RUNNING (R50). -/
def setNow (t : Nat) (s : State) : State :=
  { s with
    tb := { s.tb with now := t }
    silenceClock := if s.sup.quiesce = .running then
        holdTime ((s.silenceClock : Int) + ((t : Int) - (now s : Int)))
      else s.silenceClock }

/-- The silence clock one microsecond on, held at its top (R50, log 10). -/
def tickSilence (s : State) : State :=
  { s with silenceClock := if s.sup.quiesce = .running then
             min (s.silenceClock + 1) Config.timeMax else s.silenceClock }

/-- The counter one microsecond on, 0 after 2^56 - 1 (R1), and the clock source REFCLK when a qualified reference has waited for this boundary (R3). -/
def TimeBase.advance (b : TimeBase) : TimeBase :=
  { b with now := if b.now < Config.timeMax then b.now + 1 else 0
           source := if b.switchPending then .refclk else b.source
           switchPending := false }

/-- The loss of REFCLK (R2): the source INTERNAL, the flag clear. -/
def TimeBase.lose (b : TimeBase) : TimeBase :=
  { b with source := .internal, refPresent := false, switchPending := false }

/-- The qualification of REFCLK (R3): the flag set, the source to switch at the next microsecond boundary. -/
def TimeBase.qualify (b : TimeBase) : TimeBase :=
  { b with refPresent := true, switchPending := true }

/-- The last PPS phase written. -/
def setPhase (p : Int) (s : State) : State := updTb (fun b => { b with phase := some p }) s

/-- A PPS slip (R5): the slip count up by 1, saturating, and REFERENCE_SLIP on the supervisor port, or on all four ports when the role is FREE. -/
def slip (s : State) : State :=
  raiseIf (fun p => isSup p s || s.sup.role.isNone) .referenceSlip
    (updTb (fun b => { b with slip := min (b.slip + 1) 65535 }) s)

/-- The PPS check of an edge (R5), by its four rows. -/
def checkPps (s : State) : State :=
  let phase := now s % 1000000
  let tol := (tuning s).ppsTolerance
  if phase = 0 then setPhase 0 s
  else if phase ≤ tol then setPhase phase (setNow (now s - phase) s)
  else if 1000000 - tol ≤ phase then
    setPhase ((phase : Int) - 1000000) (setNow (now s + (1000000 - phase)) s)
  else
    slip (setPhase (if phase ≤ 500000 then (phase : Int) else (phase : Int) - 1000000) s)

/-! ## The events -/

/-- POWER_ON (R1, R3 to R5, R12, R40, R50, R55, R57, R80, R115, R127, R139, R158, R172): every block at its power-on value. The commands that wait in the queue come from outside the part and stay (log 24). -/
def execPowerOn (s : State) : Host.Outcome State Fault Refusal :=
  .next { State.reset with pending := s.pending }

/-- REFERENCE_LOSS (R2): TIME_DEGRADED on all ports when the reference-present flag was set. -/
def execReferenceLoss (s : State) : Host.Outcome State Fault Refusal :=
  let s1 := updTb (·.lose) s
  .next (if s.tb.refPresent then raiseAll .timeDegraded s1 else s1)

/-- REFCLK_QUALIFIED (R3). REFCLK is qualified only while the source is INTERNAL (log 2). -/
def execRefclkQualified (s : State) : Host.Outcome State Fault Refusal :=
  .next (if s.tb.source = .internal then updTb (·.qualify) s else s)

/-- PPS_EDGE (R5, R42): the edge goes to the Clock Model Unit, then the check is made when it is on and the time is set. -/
def execPpsEdge (s : State) : Host.Outcome State Fault Refusal :=
  let s1 := countPulse s
  .next (if (tuning s1).ppsCheck && s1.tb.timeSet then checkPps s1 else s1)

/-- COUNTER_ADVANCE (R1, R50). -/
def execCounterAdvance (s : State) : Host.Outcome State Fault Refusal :=
  .next (updTb (·.advance) (tickSilence s))

/-! ## The requests -/

/-- Whether a SET_TIME is within the limit of an ACTIVE ring (R6). -/
def withinSecond (t n : Nat) : Bool := decide (((t : Int) - (n : Int)).natAbs ≤ 1000000)

/-- SET_TIME as the Time Base answers it for the supervisor (R6). -/
def setTimeOwner (t : Nat) (s : State) : Answer :=
  match s.ring.state with
  | .stopped =>
    { st := updTb (fun b => { b with timeSet := true }) (setNow t s), code := .done,
      data := [.num 7 t] }
  | .active =>
    if withinSecond t (now s) then { st := setNow t s, code := .done, data := [.num 7 t] }
    else refuse .timeLocked s [.num 7 (now s)]

/-- SET_TIME (R6, R155). -/
def execSetTime (x : Xfer) (t : BitVec 56) (s : State) : Host.Outcome State Fault Refusal :=
  .next (intakeDirect x 25 .supervise false (ifSupervisor x.port (setTimeOwner t.toNat)) s)

/-- What READ_TIME returns (R7). -/
def readTimeData (s : State) : List Field :=
  [.num 7 (now s), .bit s.tb.timeSet, .bit s.tb.refPresent, .num 1 s.tb.source.num,
    .bit (tuning s).ppsCheck, .num 2 (tuning s).ppsTolerance, .num 2 s.tb.slip,
    .optInt 4 s.tb.phase]

/-- READ_TIME (R7). -/
def execReadTime (x : Xfer) (s : State) : Host.Outcome State Fault Refusal :=
  .next (intakeDirect x 27 .none false
    (fun s => { st := s, code := .done, data := readTimeData s }) s)

end Sys2Proof.Machine
end

