-- ==== Sys2Proof/Machine/Dispatch.lean ====
section
/-! DEFINITION. The dispatch of a command to its meaning: one arm per constructor of Instr. -/

namespace Sys2Proof.Machine

/-- The effect of one command on everything but the queue. -/
def exec (i : Instr) (s : State) : Host.Outcome State Fault Refusal :=
  match i with
  | .powerOn => Sys2Proof.Machine.execPowerOn s
  | .referenceLoss => Sys2Proof.Machine.execReferenceLoss s
  | .refclkQualified => Sys2Proof.Machine.execRefclkQualified s
  | .ppsEdge => Sys2Proof.Machine.execPpsEdge s
  | .transactionStart port => Sys2Proof.Machine.execTransactionStart port s
  | .transactionWithoutRequest port clocked => Sys2Proof.Machine.execTransactionWithoutRequest port clocked s
  | .frameError port clocked fault => Sys2Proof.Machine.execFrameError port clocked fault s
  | .unknownRequestKind x kind bodyLength => Sys2Proof.Machine.execUnknownRequestKind x kind bodyLength s
  | .noRequest x => Sys2Proof.Machine.execNoRequest x s
  | .submitBlock x b => Sys2Proof.Machine.execSubmitBlock x b s
  | .submitReport x r => Sys2Proof.Machine.execSubmitReport x r s
  | .zoneFlushed x zone t => Sys2Proof.Machine.execZoneFlushed x zone t s
  | .attach x group => Sys2Proof.Machine.execAttach x group s
  | .detach x group => Sys2Proof.Machine.execDetach x group s
  | .fetchEpoch x group => Sys2Proof.Machine.execFetchEpoch x group s
  | .fetchPage x group epoch page => Sys2Proof.Machine.execFetchPage x group epoch page s
  | .ackEpoch x group epoch => Sys2Proof.Machine.execAckEpoch x group epoch s
  | .readStation x slot => Sys2Proof.Machine.execReadStation x slot s
  | .convert x slot t => Sys2Proof.Machine.execConvert x slot t s
  | .startRing x origin length => Sys2Proof.Machine.execStartRing x origin length s
  | .networkReset x => Sys2Proof.Machine.execNetworkReset x s
  | .quiesceEndApply x => Sys2Proof.Machine.execQuiesceEndApply x s
  | .releaseStation x slot => Sys2Proof.Machine.execReleaseStation x slot s
  | .startSweep x => Sys2Proof.Machine.execStartSweep x s
  | .submitBlockGrant => Sys2Proof.Machine.execSubmitBlockGrant s
  | .submitReportGrant => Sys2Proof.Machine.execSubmitReportGrant s
  | .eligibilityLossNotice => Sys2Proof.Machine.execEligibilityLossNotice s
  | .zoneFlushedGrant => Sys2Proof.Machine.execZoneFlushedGrant s
  | .attachGrant => Sys2Proof.Machine.execAttachGrant s
  | .detachGrant => Sys2Proof.Machine.execDetachGrant s
  | .fetchEpochGrant => Sys2Proof.Machine.execFetchEpochGrant s
  | .fetchPageGrant => Sys2Proof.Machine.execFetchPageGrant s
  | .ackEpochGrant => Sys2Proof.Machine.execAckEpochGrant s
  | .readStationGrant => Sys2Proof.Machine.execReadStationGrant s
  | .convertGrant => Sys2Proof.Machine.execConvertGrant s
  | .startRingGrant => Sys2Proof.Machine.execStartRingGrant s
  | .networkResetGrant => Sys2Proof.Machine.execNetworkResetGrant s
  | .quiesceEndApplyGrant => Sys2Proof.Machine.execQuiesceEndApplyGrant s
  | .releaseStationGrant => Sys2Proof.Machine.execReleaseStationGrant s
  | .startSweepGrant => Sys2Proof.Machine.execStartSweepGrant s
  | .claimSupervisor x seed => Sys2Proof.Machine.execClaimSupervisor x seed s
  | .releaseSupervisor x => Sys2Proof.Machine.execReleaseSupervisor x s
  | .checkIn x response => Sys2Proof.Machine.execCheckIn x response s
  | .checkinMiss => Sys2Proof.Machine.execCheckinMiss s
  | .quiesceRequest x hold => Sys2Proof.Machine.execQuiesceRequest x hold s
  | .quiesceGrant => Sys2Proof.Machine.execQuiesceGrant s
  | .quiesceEndDiscard x => Sys2Proof.Machine.execQuiesceEndDiscard x s
  | .quiesceHoldExpiry => Sys2Proof.Machine.execQuiesceHoldExpiry s
  | .stageShape x item => Sys2Proof.Machine.execStageShape x item s
  | .stageTuning x item value => Sys2Proof.Machine.execStageTuning x item value s
  | .commitTuning x => Sys2Proof.Machine.execCommitTuning x s
  | .discardTuning x => Sys2Proof.Machine.execDiscardTuning x s
  | .setTime x t => Sys2Proof.Machine.execSetTime x t s
  | .setRights x r => Sys2Proof.Machine.execSetRights x r s
  | .readTime x => Sys2Proof.Machine.execReadTime x s
  | .readCauses x => Sys2Proof.Machine.execReadCauses x s
  | .ackCause x cause count => Sys2Proof.Machine.execAckCause x cause count s
  | .setCauseMask x cause value => Sys2Proof.Machine.execSetCauseMask x cause value s
  | .status x => Sys2Proof.Machine.execStatus x s
  | .resumePort x => Sys2Proof.Machine.execResumePort x s
  | .portReset x => Sys2Proof.Machine.execPortReset x s
  | .boundaryEvent => Sys2Proof.Machine.execBoundaryEvent s
  | .recordEndEvent epoch => Sys2Proof.Machine.execRecordEndEvent epoch s
  | .zoneDeadlineExpiry epoch zone => Sys2Proof.Machine.execZoneDeadlineExpiry epoch zone s
  | .groupStall group => Sys2Proof.Machine.execGroupStall group s
  | .intervalDeadline => Sys2Proof.Machine.execIntervalDeadline s
  | .pulseCountReached => Sys2Proof.Machine.execPulseCountReached s
  | .silenceExpiry slot => Sys2Proof.Machine.execSilenceExpiry slot s
  | .holdExpiry slot => Sys2Proof.Machine.execHoldExpiry slot s
  | .retimeStart => Sys2Proof.Machine.execRetimeStart s
  | .retimeStep => Sys2Proof.Machine.execRetimeStep s
  | .retimeFinalStep => Sys2Proof.Machine.execRetimeFinalStep s
  | .counterAdvance => Sys2Proof.Machine.execCounterAdvance s

end Sys2Proof.Machine
end

