-- ==== Sys2Proof/Safety.lean ====
section
/-! DEFINITION. What the statements about the part are written in: the invariants that every step keeps (ranges, the accounts of the ports, supervision, the ring, the groups, the pool), what the rules make of one epoch record, written from the rules and apart from the operations of the model, and the words for a request that a port takes and for a reply that is queued. -/

namespace Sys2Proof.Safety

open Sys2Proof.Machine

/-! ## Ranges (Table 12-6, R149, R156) -/

/-- A tuning set whose items lie in the ranges of Table 12-6. -/
abbrev TuningInRange (t : Tuning) : Prop :=
  (1 ≤ t.baseGate ∧ t.baseGate ≤ 1000000) ∧ t.initialUncertainty ≤ 1000000 ∧
  t.uncertaintyFloor ≤ 65535 ∧ t.growth ≤ 100000 ∧ (1 ≤ t.ceiling ∧ t.ceiling ≤ 10000000) ∧
  t.smoothing ≤ 7 ∧ (1 ≤ t.acquisition ∧ t.acquisition ≤ 7) ∧
  (1 ≤ t.lockOffFilter ∧ t.lockOffFilter ≤ 7) ∧ (2 ≤ t.stepConfirm ∧ t.stepConfirm ≤ 7) ∧
  (1 ≤ t.faultThreshold ∧ t.faultThreshold ≤ 15) ∧
  (1 ≤ t.silenceLimit ∧ t.silenceLimit ≤ 3600) ∧ (10 ≤ t.reportAge ∧ t.reportAge ≤ 86400) ∧
  (1 ≤ t.futureTolerance ∧ t.futureTolerance ≤ 60) ∧ (1 ≤ t.ackLimit ∧ t.ackLimit ≤ 3600) ∧
  (1 ≤ t.sweepN ∧ t.sweepN ≤ 255) ∧ (1 ≤ t.sweepK ∧ t.sweepK ≤ 64) ∧
  (1 ≤ t.checkinPeriod ∧ t.checkinPeriod ≤ 255) ∧
  (1 ≤ t.checkinThreshold ∧ t.checkinThreshold ≤ 15) ∧ t.ppsTolerance ≤ 1000 ∧
  t.supervisoryWeight ≤ 7 ∧ t.submitWeight ≤ 7 ∧ t.consumeWeight ≤ 7 ∧ t.localityBonus ≤ 7 ∧
  (1 ≤ t.ageStep ∧ t.ageStep ≤ 3) ∧ (1 ≤ t.ageMax ∧ t.ageMax ≤ 15) ∧
  (1 ≤ t.guardLimit ∧ t.guardLimit ≤ 15)

/-- A zone entry whose parameters lie in the ranges of R149. -/
abbrev ZoneInRange (z : ZoneEntry) : Prop :=
  z.budget ≤ 255 ∧ z.extension ≤ 255 ∧ z.cap ≤ 3600 ∧ z.hold ≤ 255

/-- A shape item whose fields lie in the ranges of R149. -/
def ItemInRange : ShapeItem → Bool
  | .addStation _ code _ depth _ => decide (code ≤ 65535) && decide (depth ≤ 6)
  | .removeStation _ => true
  | .setStation _ _ depth _ => decide (depth ≤ 6)
  | .setZone _ e => decide (ZoneInRange e)

/-- The tuning sets, the zone table, the staged items and the credit limits in their ranges (R149, R153, R156). -/
abbrev TablesInRange (s : State) : Prop :=
  TuningInRange s.sup.active ∧ (∀ t ∈ s.sup.stagedTuning, TuningInRange t) ∧
  (∀ t ∈ s.sup.committed, TuningInRange t) ∧ (∀ z : ZoneId, ZoneInRange (zoneEntry z s)) ∧
  (∀ i ∈ s.sup.staged, ItemInRange i = true) ∧
  (∀ p : PortId, 1 ≤ (rightsOf p s).credit ∧ (rightsOf p s).credit ≤ 8)

/-- The Time Base and the silence clock in the ranges of their tables (01, table of 1.1; R50). -/
abbrev TimeInRange (s : State) : Prop :=
  s.tb.now ≤ 2 ^ 56 - 1 ∧ s.silenceClock ≤ 2 ^ 56 - 1 ∧ s.tb.slip ≤ 65535 ∧
  (∀ p ∈ s.tb.phase, -499999 ≤ p ∧ p ≤ 500000)

/-! ## Supervision (R139 to R154) -/

/-- The Supervision Unit between events: a holder is below the threshold (R145), a quiesce and a staged copy need a holder (R141, R145), items are staged only while QUIESCED (R149), no committed set waits while the ring is STOPPED (R154), and the seal latch is clear (log 7). -/
abbrev SupervisionConsistent (s : State) : Prop :=
  (s.sup.role.isSome = true → s.sup.errors < s.sup.active.checkinThreshold) ∧
  (s.sup.quiesce ≠ .running → s.sup.role.isSome = true) ∧
  (s.sup.staged ≠ [] → s.sup.quiesce.isQuiesced = true) ∧ s.sup.staged.length ≤ 32 ∧
  (s.sup.stagedTuning.isSome = true → s.sup.role.isSome = true) ∧
  (s.ring.state = .stopped → s.sup.committed = none) ∧ s.sealMade = false

/-! ## Ports, scheduler and attention (R158, R162, R163, R166, R173) -/

/-- A port's accounts: every reservation belongs to a request in flight, every request in flight waits, entries and reservations fit in 12 places (R158), the counts stay in their ranges, and an empty queue has no age (R166). -/
abbrev PortBalanced (p : PortState) : Prop :=
  p.reservations = p.inFlight ∧ p.inFlight = p.queue.length + p.urgent.toList.length ∧
  p.out.length + p.reservations ≤ 12 ∧ p.inFlight ≤ 8 ∧ p.dropped ≤ 255 ∧ p.guards ≤ 15 ∧
  (p.queue = [] → p.age = 0 ∧ p.guards = 0 ∧ p.overdue = false)

/-- Every port balanced, and the grant order an order of the four ports (R158, R166). -/
abbrev PortsBalanced (s : State) : Prop :=
  (∀ p : PortId, PortBalanced (port p s)) ∧ s.sched.order.Perm [0, 1, 2, 3]

/-- The masks of RESET_NOTICE and SUPERVISOR_LAPSED enabled on every port (R173). -/
abbrev MasksStand (s : State) : Prop :=
  ∀ p : PortId, (port p s).causes[Cause.resetNotice.order].mask = true ∧
    (port p s).causes[Cause.supervisorLapsed.order].mask = true

/-! ## The ring and the groups (R80, R83, R84, R86, R112, R127, R129) -/

/-- The ring's shape: consecutive epochs, at most 48 records, none above the last epoch, none below base, none while STOPPED, and at least one while ACTIVE with origin, length and base present (R80, R82, R88); the boundary deadline follows the newest record (R86). -/
abbrev RingConsistent (s : State) : Prop :=
  s.ring.records.IsChain (fun a b => b.epoch = a.epoch + 1) ∧ s.ring.records.length ≤ 48 ∧
  (∀ r ∈ s.ring.records, r.epoch ≤ 4294967295) ∧
  (s.ring.state = .stopped → s.ring = Ring.empty) ∧
  (s.ring.state = .active → s.ring.records ≠ [] ∧ s.ring.origin.isSome = true ∧
    (∃ l ∈ s.ring.length, 1 ≤ l ∧ l ≤ 120) ∧ s.ring.base.isSome = true) ∧
  (∀ b ∈ s.ring.base, ∀ r ∈ s.ring.records, b ≤ r.epoch) ∧
  (∀ r ∈ newest s, s.ring.boundary = boundaryAfter r.epoch s)

/-- The order of release: exactly the records below base + release count are RELEASED, that epoch is in the ring or the one above its newest record, the record waiting to be released next is OPEN, and only an OPEN record has a station WAITING (R83, R84, R112). -/
abbrev ReleaseConsistent (s : State) : Prop :=
  ∀ n ∈ releaseNext s,
    (∀ r ∈ s.ring.records, r.state = .released ↔ r.epoch < n) ∧
    (∀ r ∈ s.ring.records, r.epoch = n → r.state = .opened) ∧
    (∀ r ∈ s.ring.records.head?, r.epoch ≤ n) ∧ (∀ r ∈ newest s, n ≤ r.epoch + 1) ∧
    (∀ r ∈ s.ring.records, r.state ≠ .opened → ∀ k : Slot, r.entries[k].status ≠ .waiting) ∧
    (∀ r ∈ s.ring.records, ∀ k : Slot, r.entries[k].count ≤ 255)

/-- The groups against the ring (R127, R129): what is present in each state; an ACTIVE group is in the awaiting set of exactly the RELEASED records at or above its cursor, which is at most base + release count and not below the oldest record; a group that is not ACTIVE is in none; and every group is DETACHED while the ring is STOPPED. -/
abbrev GroupsConsistent (s : State) : Prop :=
  ∀ g : GroupId,
    ((group g s).state = .detached → group g s = Group.detached) ∧
    ((group g s).state = .stalled → (group g s).stall = none) ∧
    (s.ring.state = .stopped → (group g s).state = .detached) ∧
    ((group g s).state ≠ .active → ∀ r ∈ s.ring.records, r.awaits g = false) ∧
    ((group g s).state = .active → (group g s).lastAck.isSome = true ∧
      ∃ c ∈ (group g s).cursor,
        (∀ r ∈ s.ring.records, r.awaits g = true ↔ r.state = .released ∧ c ≤ r.epoch) ∧
        (∀ n ∈ releaseNext s, c ≤ n) ∧ (∀ r ∈ s.ring.records.head?, r.epoch ≤ c))

/-- The latest network time that the future tolerance admits (R63, R87), held in range (R9). -/
def latestAllowed (s : State) : Nat :=
  min (now s + (tuning s).futureTolerance * 1000000) (2 ^ 56 - 1)

/-! ## What the rules make of one record -/

/-- The terms of the seal condition but the third (R109): OPEN, its end event past, no station WAITING, and not the record of the last epoch. -/
abbrev SealTerms (r : Record) : Prop :=
  r.state = .opened ∧ r.ended = true ∧ (∀ k : Slot, r.entries[k].status ≠ .waiting) ∧
  r.epoch ≠ 4294967295

/-- A station PASSED or PASSED_GAP in the record is RETIMING: the third term fails (R109). -/
abbrev HeldByRetiming (s : State) (r : Record) : Prop :=
  ∃ k : Slot, (r.entries[k].status = .passed ∨ r.entries[k].status = .passedGap) ∧
    (station k s).retiming = true

/-- A record as a seal at a time leaves it (R110): the reason by its entries, and its pending deadlines abandoned, which the model writes as absent (log 31). -/
def sealedAt (t : Nat) (r : Record) : Record :=
  { r with
    state := .sealed
    reason := some (if ∃ k : Slot, r.entries[k].status = .absentTimeout ∨
        r.entries[k].status = .absentFlushed then .timed else .complete)
    sealTime := some t
    zones := imap (fun _ w => match w.deadline with
      | .pending _ => { w with deadline := .absent }
      | .absent | .expired _ => w) r.zones }

/-- A record as a test of the seal condition leaves it: sealed, its seal deferred (R111), or as it was. -/
def sealTested (s : State) (r : Record) : Record :=
  if SealTerms r then
    if HeldByRetiming s r then { r with deferred := true } else sealedAt (now s) r
  else r

/-- A record with the WAITING stations of a zone given up with a status (R103, R105, R107, R152). -/
def zoneGivenUp (z : ZoneId) (x : Status) (s : State) (r : Record) : Record :=
  { r with entries := imap (fun k e =>
      if e.status = .waiting ∧ (station k s).clk.zone = z then { e with status := x } else e) r.entries }

/-- The value that a zone's deadline has for a record end and an extension total (R103, R106, R152), held in range (R9); a NO_WAIT zone has none. -/
def deadlineValue (e : ZoneEntry) (stop extension : Nat) : Option Nat :=
  match e.mode with
  | .fixed => some (min (stop + e.budget * 1000000) (2 ^ 56 - 1))
  | .adaptive =>
    some (min (stop + min (min e.budget e.cap + extension) e.cap * 1000000) (2 ^ 56 - 1))
  | .signalled => some (min (stop + e.cap * 1000000) (2 ^ 56 - 1))
  | .noWait => none

/-- A record as its end event leaves it, before the seal test (R103): each zone with a station WAITING takes its deadline, and the WAITING stations of a NO_WAIT zone become ABSENT_TIMEOUT. -/
def endedRecord (s : State) (r : Record) : Record :=
  { r with
    ended := true
    zones := imap (fun z w =>
      if ∃ k : Slot, r.entries[k].status = .waiting ∧ (station k s).clk.zone = z then
        match deadlineValue (zoneEntry z s) (s.ring.epochEnd r.epoch) 0 with
        | some t => { deadline := .pending t, extension := 0 }
        | none => w
      else w) r.zones
    entries := imap (fun k e =>
      if e.status = .waiting ∧ (zoneEntry (station k s).clk.zone s).mode = .noWait then
        { e with status := .absentTimeout } else e) r.entries }

/-- The entry that station k has in a record opened for epoch n (R85): its share of the blocks already filed, and its status by eligibility and coverage. -/
def freshEntry (s : State) (n : Nat) (k : Slot) : Entry :=
  let mine := (s.pool.used.map (·.2)).filter fun b =>
    decide (b.place ≠ .held) && decide (b.slot = k) && s.ring.blockOverlaps b n
  let gap := mine.any fun b => b.flags.gap || b.flags.timeGap
  { status :=
      if eligible k s then
        if covers k n s then (if gap then .passedGap else .passed) else .waiting
      else .notExpected
    gap := gap
    count := min mine.length 255 }

/-- The record that is opened for epoch n (Table 5-1, R85). -/
def freshRecord (s : State) (n : Nat) : Record :=
  { epoch := n, start := s.ring.epochStart n, state := .opened, reason := none,
    sealTime := none, releaseTime := none, ended := false,
    entries := Vector.ofFn (freshEntry s n),
    zones := Vector.ofFn fun _ => { deadline := .absent, extension := 0 },
    blocks := [], late := 0, deferred := false, awaiting := 0 }

/-- A zone deadline as a filing that raised a count after the record's end leaves it (R106): the total grows by the step, held at 3600 s (log 17), and the deadline follows it up to the cap; one that stands at the cap stays. -/
def extendedWait (e : ZoneEntry) (stop : Nat) (w : ZoneWait) : ZoneWait :=
  match w.deadline with
  | .pending t =>
    if t < min (stop + e.cap * 1000000) (2 ^ 56 - 1) then
      { deadline := .pending ((deadlineValue e stop (min (w.extension + e.extension) 3600)).getD t)
        extension := min (w.extension + e.extension) 3600 }
    else w
  | .absent | .expired _ => w

/-- A record as the filing of block b, pool record i, in the record of epoch n leaves it, before the seal test (R92 to R95, R106). Only an OPEN record changes: it takes the block when it is that of epoch n; the block counts there and in each record that it overlaps; GAP and TIME_GAP mark the records overlapped; a count raised after the end extends an ADAPTIVE deadline; and a WAITING station that the coverage reaches is PASSED. -/
def filedRecord (s : State) (i n : Nat) (late : Bool) (b : Block) (r : Record) : Record :=
  if r.state = .opened then
    let old := r.entries[b.slot]
    let z := (station b.slot s).clk.zone
    let reaches := s.ring.blockOverlaps b r.epoch
    let counts := decide (r.epoch = n) || reaches
    let gap := old.gap || (reaches && (b.flags.gap || b.flags.timeGap))
    let extends_ := counts && r.ended && decide ((zoneEntry z s).mode = .adaptive) &&
      decide (old.count < 255)
    { r with
      blocks := if r.epoch = n then r.blocks ++ [i] else r.blocks
      late := if r.epoch = n ∧ late = true then r.late + 1 else r.late
      zones := if extends_ then
          put r.zones z (extendedWait (zoneEntry z s) (s.ring.epochEnd r.epoch) r.zones[z])
        else r.zones
      entries := put r.entries b.slot
        { count := if counts then min (old.count + 1) 255 else old.count
          gap := gap
          status :=
            if old.status = .waiting ∧ covers b.slot r.epoch s = true then
              (if gap then .passedGap else .passed)
            else if old.status = .passed ∧ (reaches && (b.flags.gap || b.flags.timeGap)) = true then
              .passedGap
            else old.status } }
  else r

/-- A record as a re-placement of the block in pool record i leaves it (R120): `b` is the block before it, filed in the record of epoch `own`, and `b1` after it, placed in that of epoch `n`. Only an OPEN record changes. -/
def replacedRecord (s : State) (i own n : Nat) (carried : Bool) (b b1 : Block) (r : Record) : Record :=
  if r.state = .opened then
    let old := r.entries[b.slot]
    let was := decide (r.epoch = own) || s.ring.blockOverlaps b r.epoch
    let reaches := s.ring.blockOverlaps b1 r.epoch
    let is := decide (r.epoch = n) || reaches
    let marks := reaches && (b.flags.gap || b.flags.timeGap)
    let lowered := if was = true ∧ old.count ≠ 255 then old.count - 1 else old.count
    { r with
      blocks :=
        if own = n then r.blocks
        else if r.epoch = own then r.blocks.filter (· ≠ i)
        else if r.epoch = n then r.blocks ++ [i]
        else r.blocks
      late :=
        if own = n then
          if r.epoch = n ∧ carried = true ∧ b.flags.late = false then r.late + 1 else r.late
        else if r.epoch = own ∧ b.flags.late = true then r.late - 1
        else if r.epoch = n ∧ carried = true then r.late + 1
        else r.late
      entries := put r.entries b.slot
        { count := if is then min (lowered + 1) 255 else lowered
          gap := old.gap || marks
          status := if old.status = .passed ∧ marks = true then .passedGap else old.status } }
  else r

/-- Whether the deadline of zone z in a record has passed, and the record as the question leaves it (R104): not before the end event; always under NO_WAIT and where it is expired; not while it is pending; and where it is absent, once its nominal value has come, else it becomes pending at that value. -/
def deadlineJudged (s : State) (z : ZoneId) (r : Record) : Bool × Record :=
  if r.ended = true then
    match deadlineValue (zoneEntry z s) (s.ring.epochEnd r.epoch) 0, r.zones[z].deadline with
    | none, _ | some _, .expired _ => (true, r)
    | some _, .pending _ => (false, r)
    | some t, .absent =>
      if t ≤ now s then (true, r)
      else (false, { r with zones := put r.zones z { deadline := .pending t, extension := 0 } })
  else (false, r)

/-- A record as the second step of a final step of station k leaves it (R122), the coverage reckoned afresh: where the station is WAITING, PASSED or PASSED_GAP in an OPEN record, its status by the coverage, then by eligibility and its zone's deadline, then by what takes its eligibility away. -/
def recoveredRecord (s : State) (k : Slot) (r : Record) : Record :=
  let e := r.entries[k]
  let c := (station k s).clk
  let is (x : Status) (r : Record) : Record :=
    { r with entries := put r.entries k { e with status := x } }
  if r.state = .opened ∧
      (e.status = .waiting ∨ e.status = .passed ∨ e.status = .passedGap) then
    if covers k r.epoch s = true then is (if e.gap then .passedGap else .passed) r
    else if c.state ≠ .locked ∧ c.state ≠ .tracking then is .absentState r
    else if (station k s).sq.silent = true then is .absentSilent r
    else if (zoneEntry c.zone s).mode = .noWait then is .absentTimeout r
    else if (deadlineJudged s c.zone r).1 = true then is .absentTimeout r
    else is .waiting (deadlineJudged s c.zone r).2
  else r

/-- A record as a change of station k to zone z leaves it (R151), the zone table as it stands: judged only where the end event has occurred and the station is WAITING. When the deadline has passed (R104) the station becomes ABSENT_TIMEOUT, and the deadline, where it was absent, expired at its nominal value; NO_WAIT has none. -/
def movedRecord (s : State) (k : Slot) (z : ZoneId) (r : Record) : Record :=
  if r.state = .opened ∧ r.ended = true ∧ r.entries[k].status = .waiting then
    let lost := put r.entries k { r.entries[k] with status := .absentTimeout }
    match deadlineValue (zoneEntry z s) (s.ring.epochEnd r.epoch) 0, r.zones[z].deadline with
    | none, _ | some _, .expired _ => { r with entries := lost }
    | some _, .pending _ => r
    | some t, .absent =>
      if t ≤ now s then
        { r with entries := lost, zones := put r.zones z { r.zones[z] with deadline := .expired t } }
      else { r with zones := put r.zones z { deadline := .pending t, extension := 0 } }
  else r

/-- A record as a SET_ZONE of zone z leaves it, the zone table as it stands after it (R152): after the end event a pending deadline is recomputed, and expires when it has passed; and when the zone is NO_WAIT its WAITING stations become ABSENT_TIMEOUT and its deadline becomes expired, with a free value where it was absent (log 13). -/
def rezonedRecord (s : State) (z : ZoneId) (r : Record) : Record :=
  let out := zoneGivenUp z .absentTimeout s r
  let at_ (d : Deadline) : Vector ZoneWait 8 := put r.zones z { r.zones[z] with deadline := d }
  if r.state = .opened ∧ r.ended = true then
    match deadlineValue (zoneEntry z s) (s.ring.epochEnd r.epoch) r.zones[z].extension,
        r.zones[z].deadline with
    | none, .pending t => { out with zones := at_ (.expired t) }
    | none, .absent => { out with zones := at_ (.expired (Config.noWaitExpiry r.epoch z.val (now s))) }
    | none, .expired _ => out
    | some t, .pending _ =>
      if t ≤ now s then { out with zones := at_ (.expired t) }
      else { r with zones := at_ (.pending t) }
    | some _, .absent | some _, .expired _ => r
  else r

/-! ## The pool (R55, R62) -/

/-- The pool in its form, its records adding up to 8192, and no two of its blocks with the same station and sequence number (R55, R62). -/
abbrev PoolConsistent (s : State) : Prop :=
  s.pool.wf = true ∧ s.pool.freeCount + s.pool.used.length = 8192 ∧
  s.pool.used.Pairwise (fun a b => ¬(a.2.slot = b.2.slot ∧ a.2.seq = b.2.seq))

/-! ## Requests as their port takes them -/

/-- The requests that wait in a pending queue, with the request that joins it (Table 10-1). -/
def waiting : Instr → Option (Xfer × ServiceReq)
  | .submitBlock x b => some (x, .submitBlock b)
  | .submitReport x r => some (x, .submitReport r)
  | .zoneFlushed x z t => some (x, .zoneFlushed z t)
  | .attach x g => some (x, .attach g)
  | .detach x g => some (x, .detach g)
  | .fetchEpoch x g => some (x, .fetchEpoch g)
  | .fetchPage x g n p => some (x, .fetchPage g n p)
  | .ackEpoch x g n => some (x, .ackEpoch g n)
  | .readStation x k => some (x, .readStation k)
  | .startRing x o l => some (x, .startRing o l)
  | .networkReset x => some (x, .networkReset)
  | .quiesceEndApply x => some (x, .quiesceEndApply)
  | .releaseStation x k => some (x, .releaseStation k)
  | .startSweep x => some (x, .startSweep)
  | _ => none

/-- The request frames that pass the integrity check and are no poll, with their kind code (R162). -/
def placed : Instr → Option (Xfer × Byte)
  | .unknownRequestKind x kind _ => some (x, kind)
  | .noRequest _ => none
  | i => i.request.map fun e => (e.1, BitVec.ofNat 8 e.2)

/-- The right that a request of the catalogue needs, by its kind code (Table 10-1). -/
def needOf (kind : Nat) : Need :=
  if 1 ≤ kind ∧ kind ≤ 3 then .submit
  else if 4 ≤ kind ∧ kind ≤ 10 then .consume
  else if 11 ≤ kind ∧ kind ≤ 26 then .supervise
  else .none

/-- A port as the release of select leaves it, before the intake checks (R159). -/
def afterRelease (x : Xfer) (s : State) : PortState := (port x.port s).endTxn x.clocked

/-- A free place that is not reserved, when the intake checks begin (R162). -/
abbrev HasPlace (x : Xfer) (s : State) : Prop :=
  (afterRelease x s).out.length + (afterRelease x s).reservations < 12

/-- A port that is not HALTED and has a place: it reserves one for the reply (R162). -/
abbrev Takes (x : Xfer) (s : State) : Prop := (port x.port s).halted = false ∧ HasPlace x s

/-- A credit free for a request of the service path (R163). -/
abbrev HasCredit (x : Xfer) (s : State) : Prop :=
  (port x.port s).inFlight < (rightsOf x.port s).credit

/-- A port that takes a request of the supervisor and holds the role (R155, R164). -/
abbrev Supervises (x : Xfer) (s : State) : Prop :=
  Takes x s ∧ (rightsOf x.port s).supervise = true ∧ isSup x.port s = true

/-- The state in which a port has reserved the place for a request's reply: select released, one reservation more, nothing else (R159, R162). -/
def reserved (x : Xfer) (s : State) : State :=
  updPort x.port (fun p => { p.endTxn x.clocked with reservations := p.reservations + 1 }) s

/-- The state in which a request has been answered in the event of its transaction: select released, and the reply at the tail of the outbound queue (R159, R165). -/
def answered (x : Xfer) (f : OutFrame) (s : State) : State :=
  updPort x.port (fun p => { p.endTxn x.clocked with out := (p.endTxn x.clocked).out ++ [f] }) s

/-- The state in which a request has been discarded: select released, and the dropped count up by 1, saturating at 255 (R162). -/
def discarded (x : Xfer) (s : State) : State :=
  updPort x.port (fun p =>
    { p.endTxn x.clocked with dropped := min ((p.endTxn x.clocked).dropped + 1) 255 }) s

/-! ## Requests at their grants -/

/-- A head that wins the grant: the request q of port p, with the requests behind it (R166). -/
abbrev Wins (p : PortId) (q : Queued) (rest : List Queued) (s : State) : Prop :=
  winner s = some (.head p) ∧ (port p s).queue = q :: rest

/-- An urgent slot that wins the grant (R166). -/
abbrev WinsUrgent (p : PortId) (u : Urgent) (s : State) : Prop :=
  winner s = some (.urgent p) ∧ (port p s).urgent = some u

/-- The state in which a granted request has been answered: the reply in its reserved place, one reservation and one request in flight less (R162, R163). -/
def granted (p : PortId) (tag kind : Byte) (code : Code) (data : List Field) (s : State) : State :=
  updPort p (fun ps => { ps with out := ps.out ++ [.reply tag kind code data],
                                 reservations := ps.reservations - 1,
                                 inFlight := ps.inFlight - 1 }) s

end Sys2Proof.Safety
end

