-- ==== Sys2Proof/Certificates/Slice0/Obligations.lean ====
section
/-! DEFINITION. The statements about the part. Each says what it states in its name; its docstring cites the rules of spec/ it rests on and names the log entry where a clause is the model's choice. -/

section Statements

open Sys2Proof Sys2Proof.Machine Sys2Proof.Safety

/-! ## The queue of commands -/

/-- A step takes the command at the front of the queue and runs it on the rest; an empty queue idles (log 1). -/
def Obligations.StepRunsTheFrontCommand : Prop :=
  (∀ (c : Instr) (rest : List Instr) (s : State),
    step { s with pending := c :: rest } = exec c { s with pending := rest }) ∧
  (∀ (c : Instr) (s : State), step (s.withCommand c) = exec c s) ∧
  (∀ s : State, s.pending = [] → step s = .next s)

/-- Every command answers a next state: the part neither faults nor refuses, since the manual gives every request a reply and every event an effect (00, sections 6.7 and 6.8). It leaves the queue of waiting commands as it was: that clause is the model's own, for the queue is the model's (log 1), and POWER_ON keeps it by the model's choice (log 24). -/
def Obligations.EveryCommandAnswersANextState : Prop :=
  ∀ (c : Instr) (s : State), ∃ t, exec c s = .next t ∧ t.pending = s.pending

/-! ## Power-on -/

/-- POWER_ON puts every block at the value that its rule gives for power-on (R1, R3, R4, R5, R12, R40, R50, R55, R57, R80, R115, R127, R139, R158, R172); the queue of commands stays (log 24). -/
def Obligations.PowerOnGivesTheResetValues : Prop :=
  ∀ s : State, ∃ t, exec .powerOn s = .next t ∧ t = { State.reset with pending := s.pending } ∧
    t.tb = { now := 0, timeSet := false, refPresent := false, source := .internal,
             switchPending := false, slip := 0, phase := none } ∧
    (∀ k : Slot, (station k t).clk.state = .vacant ∧ (station k t).clk.code = 0 ∧
      (station k t).clk.zone = 0 ∧ (station k t).clk.action = .notify ∧
      (station k t).clk.anchor = none ∧ (station k t).clk.generation = 0 ∧
      (station k t).sq.depth = 2 ∧ (station k t).sq.expected = none ∧
      (station k t).sq.held = [] ∧ (station k t).sq.silent = false ∧
      (station k t).retiming = false ∧ (station k t).lastReport = none) ∧
    t.sweep = { cursor := 0, deadline := some 4000000, pulses := 0 } ∧ t.silenceClock = 0 ∧
    t.pool.freeCount = 8192 ∧ t.pool.head = some 0 ∧
    t.ring.state = .stopped ∧ t.ring.records = [] ∧ t.ring.releaseCount = 0 ∧
    t.retime.queue = [] ∧ t.retime.running = none ∧
    (∀ g : GroupId, (group g t).state = .detached) ∧
    t.sup.role = none ∧ t.sup.errors = 0 ∧ t.sup.quiesce = .running ∧ t.sup.staged = [] ∧
    t.sup.stagedTuning = none ∧ t.sup.committed = none ∧ t.sup.active = Tuning.default ∧
    (∀ z : ZoneId, zoneEntry z t =
      { mode := .fixed, budget := 5, extension := 1, cap := 30, hold := 2 }) ∧
    (∀ p : PortId, rightsOf p t =
      { submit := true, consume := true, supervise := true, subscriptions := 1#4 <<< p.val,
        credit := 4, framePolicy := .drop, violation := .refuse }) ∧
    (∀ p : PortId, (port p t).out = [] ∧ (port p t).reservations = 0 ∧ (port p t).inFlight = 0 ∧
      (port p t).halted = false ∧ (port p t).dropped = 0 ∧ (port p t).queue = [] ∧
      (port p t).urgent = none ∧ (port p t).attention = true ∧
      ∀ c : Fin 21, (port p t).causes[c] =
        { pending := decide (c.val = 0), count := if c.val = 0 then 1 else 0, mask := true }) ∧
    t.sched = { order := [0, 1, 2, 3], locality := none }

/-- The state after reset meets every invariant. -/
def Obligations.ResetMeetsTheInvariants : Prop :=
  TablesInRange State.reset ∧ TimeInRange State.reset ∧ SupervisionConsistent State.reset ∧
  PortsBalanced State.reset ∧ MasksStand State.reset ∧ RingConsistent State.reset ∧
  ReleaseConsistent State.reset ∧ GroupsConsistent State.reset ∧ PoolConsistent State.reset

/-! ## The Time Base -/

/-- COUNTER_ADVANCE: now goes up by 1 and is 0 after 2^56 - 1 (R1), a qualified REFCLK becomes the source at this boundary (R3), and the silence clock goes with now while the quiesce state is RUNNING (R50), held at its top (log 10). REFERENCE_LOSS (R2) and REFCLK_QUALIFIED (R3). A qualification while the source is REFCLK already is no event (log 2). That a qualification sets a flag which the next COUNTER_ADVANCE turns into the switch, and that a loss before it cancels the switch, is the model's reading of the two intervals (log 11). -/
def Obligations.TheCounterAdvancesFromItsSource : Prop :=
  (∀ s : State, s.tb.now ≤ 2 ^ 56 - 1 →
    exec .counterAdvance s = .next { s with
      tb := { s.tb with
        now := (s.tb.now + 1) % 2 ^ 56
        source := if s.tb.switchPending then .refclk else s.tb.source
        switchPending := false }
      silenceClock := if s.sup.quiesce = .running then min (s.silenceClock + 1) (2 ^ 56 - 1)
        else s.silenceClock }) ∧
  (∀ s : State,
    (exec .referenceLoss s = .next
      (let t := { s with tb := { s.tb with source := .internal, refPresent := false,
                                           switchPending := false } }
       if s.tb.refPresent then raiseAll .timeDegraded t else t)) ∧
    (s.tb.source = .internal → exec .refclkQualified s = .next
      { s with tb := { s.tb with refPresent := true, switchPending := true } }) ∧
    (s.tb.source = .refclk → exec .refclkQualified s = .next s))

/-- PPS_EDGE (R5, R42). The edge is counted under PULSE, whatever the check, and the N-th makes a sweep; then, with the check on and the time set, the counter is pulled onto the second within the tolerance, or a slip is counted and raised. The silence clock steps with now while the quiesce state is RUNNING (R8, R50), held at the ends of its range (log 10). -/
def Obligations.PpsEdgeIsCheckedByItsFourRows : Prop :=
  ∀ s : State, (tuning s).ppsTolerance ≤ 1000 →
    let u : State :=
      if (tuning s).trigger ≠ .pulse then s
      else if s.sweep.pulses + 1 < (tuning s).sweepN then
        { s with sweep := { s.sweep with pulses := s.sweep.pulses + 1 } }
      else sweep { s with sweep := { s.sweep with pulses := 0 } }
    let ph := s.tb.now % 1000000
    let tol := (tuning s).ppsTolerance
    let silence (t : Nat) : Nat := if s.sup.quiesce = .running then
      holdTime ((s.silenceClock : Int) + ((t : Int) - (s.tb.now : Int))) else s.silenceClock
    ((tuning s).ppsCheck = false ∨ s.tb.timeSet = false → exec .ppsEdge s = .next u) ∧
    ((tuning s).ppsCheck = true → s.tb.timeSet = true →
      (ph = 0 → exec .ppsEdge s = .next { u with tb := { s.tb with phase := some 0 } }) ∧
      (1 ≤ ph → ph ≤ tol → exec .ppsEdge s = .next { u with
        tb := { s.tb with now := s.tb.now - ph, phase := some (ph : Int) }
        silenceClock := silence (s.tb.now - ph) }) ∧
      (1000000 - tol ≤ ph → exec .ppsEdge s = .next { u with
        tb := { s.tb with now := s.tb.now + (1000000 - ph), phase := some ((ph : Int) - 1000000) }
        silenceClock := silence (s.tb.now + (1000000 - ph)) }) ∧
      (tol < ph → ph < 1000000 - tol → exec .ppsEdge s = .next
        (raiseIf (fun p => isSup p s || s.sup.role.isNone) .referenceSlip
          { u with tb := { s.tb with
              phase := some (if ph ≤ 500000 then (ph : Int) else (ph : Int) - 1000000)
              slip := min (s.tb.slip + 1) 65535 } })))

/-- SET_TIME of the supervisor (R6): any time while the ring is STOPPED, which sets the time-set flag; a step of at most 1 s while it is ACTIVE; TIME_LOCKED beyond. The silence clock steps with now while the quiesce state is RUNNING (R50), held at the ends of its range (log 10). -/
def Obligations.SetTimeStepsTheCounter : Prop :=
  ∀ (s : State) (x : Xfer) (t : BitVec 56), Supervises x s →
    let silence : Nat := if s.sup.quiesce = .running then
      holdTime ((s.silenceClock : Int) + ((t.toNat : Int) - (s.tb.now : Int))) else s.silenceClock
    (s.ring.state = .stopped → exec (.setTime x t) s = .next
      (answered x (.reply x.tag 25 .done [.num 7 t.toNat])
        { s with tb := { s.tb with now := t.toNat, timeSet := true }, silenceClock := silence })) ∧
    (s.ring.state = .active → ((t.toNat : Int) - (s.tb.now : Int)).natAbs ≤ 1000000 →
      exec (.setTime x t) s = .next (answered x (.reply x.tag 25 .done [.num 7 t.toNat])
        { s with tb := { s.tb with now := t.toNat }, silenceClock := silence })) ∧
    (s.ring.state = .active → 1000000 < ((t.toNat : Int) - (s.tb.now : Int)).natAbs →
      exec (.setTime x t) s = .next
        (answered x (.reply x.tag 25 .timeLocked [.num 7 s.tb.now]) s))

/-- The requests that only read, on any port that takes them, with no right needed: READ_TIME (R7), READ_CAUSES (R174) and STATUS (R171) are answered DONE and change no state. The packing of the masks is a free value (log 13), the line's state is written as 1 while it is asserted and the spare bits of the masks and of the rights as 0 (log 12), and the reservations that STATUS reports count its own (log 19). -/
def Obligations.ReadsChangeNoState : Prop :=
  ∀ (s : State) (x : Xfer),
    (Takes x s → exec (.readTime x) s = .next (answered x (.reply x.tag 27 .done
      [.num 7 s.tb.now, .bit s.tb.timeSet, .bit s.tb.refPresent, .num 1 s.tb.source.num,
       .bit (tuning s).ppsCheck, .num 2 (tuning s).ppsTolerance, .num 2 s.tb.slip,
       .optInt 4 s.tb.phase]) s)) ∧
    (Takes x s → exec (.readCauses x) s = .next (answered x (.reply x.tag 28 .done
      ([.num 1 (port x.port s).pendingCauses.length] ++
        (port x.port s).pendingCauses.flatMap (fun c => [.num 1 c.1, .num 1 c.2]) ++
        [(port x.port s).maskField, .bit (port x.port s).attention])) s)) ∧
    (∀ (c : Fin 21) (n : Nat), (c.val, n) ∈ (port x.port s).pendingCauses ↔
      (port x.port s).causes[c].pending = true ∧ n = (port x.port s).causes[c].count.toNat) ∧
    (HasPlace x s → exec (.status x) s = .next (answered x (.reply x.tag 31 .done
      [.bit (port x.port s).halted, .num 1 (port x.port s).inFlight,
       .num 1 ((port x.port s).reservations + 1), .num 1 (port x.port s).queue.length,
       .bit (port x.port s).overdue, .bit (port x.port s).urgent.isSome,
       .num 1 (port x.port s).dropped,
       .flags [(rightsOf x.port s).submit, (rightsOf x.port s).consume,
         (rightsOf x.port s).supervise],
       .num 1 (rightsOf x.port s).subscriptions.toNat, .num 1 (rightsOf x.port s).credit,
       .num 1 (rightsOf x.port s).framePolicy.num, .num 1 (rightsOf x.port s).violation.num]) s))

/-! ## Transactions and intake -/

/-- TRANSACTION_START (R159, R160, R177): the oldest frame of the outbound queue, or an IDLE frame, is chosen, and its header, body and CRC are formed from the state at this moment. The release of select without a request, and with a poll (R159, R162): a queued frame leaves the outbound queue only when every byte of it was clocked out, and what CPn_SDO carried is the frame as far as it was clocked, then bytes of 0 for every byte clocked after its CRC (R159, R177; that the state keeps these bytes is the model's choice, log 27); nothing else changes but the transaction being over. Without a transaction in progress nothing leaves (log 6). -/
def Obligations.ATransactionSendsTheOldestFrame : Prop :=
  (∀ (s : State) (p : PortId),
    let header (n : Nat) : List Byte :=
      [BitVec.ofNat 8 (port p s).out.length,
       BitVec.ofNat 8 ((rightsOf p s).credit - (port p s).inFlight),
       (if (port p s).attention then 0x80 else 0) ||| (if (port p s).halted then 0x40 else 0) |||
         (if isSup p s then 0x20 else 0),
       BitVec.ofNat 8 (port p s).dropped, BitVec.ofNat 8 (n / 256), BitVec.ofNat 8 n]
    let frame (body : List Byte) : List Byte :=
      let l := header body.length ++ body
      l ++ [BitVec.ofNat 8 ((crc16 l).toNat / 256), BitVec.ofNat 8 (crc16 l).toNat]
    (∀ (f : OutFrame) (rest : List OutFrame), (port p s).out = f :: rest →
      exec (.transactionStart p) s = .next
        (updPort p (fun q => { q with txn := some { queued := true, bytes := frame f.body } }) s)) ∧
    ((port p s).out = [] → exec (.transactionStart p) s = .next
        (updPort p (fun q => { q with txn := some { queued := false, bytes := frame [] } }) s))) ∧
  (∀ (s : State) (x : Xfer),
    exec (.noRequest x) s = exec (.transactionWithoutRequest x.port x.clocked) s ∧
    ((port x.port s).txn = none →
      exec (.transactionWithoutRequest x.port x.clocked) s = .next s) ∧
    (∀ t : Txn, (port x.port s).txn = some t →
      let carried : List Byte :=
        t.bytes.take x.clocked ++ List.replicate (x.clocked - t.bytes.length) 0
      (t.queued = true → t.bytes.length ≤ x.clocked →
        exec (.transactionWithoutRequest x.port x.clocked) s = .next (updPort x.port
          (fun p => { p with txn := none, sent := carried, out := p.out.tail }) s)) ∧
      (t.queued = false ∨ x.clocked < t.bytes.length →
        exec (.transactionWithoutRequest x.port x.clocked) s = .next (updPort x.port
          (fun p => { p with txn := none, sent := carried }) s))))

/-- FRAME_ERROR (R161): FRAME_ERROR is raised on the port, and under HALT the first one halts it and queues a halt notice into a free unreserved place, or counts a drop; nothing else of the port changes. -/
def Obligations.FrameErrorRaisesAndMayHalt : Prop :=
  ∀ (s : State) (p : PortId) (n : Nat) (f : FrameFault),
    let q := (port p s).endTxn n
    let base := raiseIf (fun r => r == p) .frameError (updPort p (fun _ => q) s)
    ((rightsOf p s).framePolicy = .drop ∨ (port p s).halted = true →
      exec (.frameError p n f) s = .next base) ∧
    ((rightsOf p s).framePolicy = .halt → (port p s).halted = false →
      q.out.length + q.reservations < 12 → exec (.frameError p n f) s = .next
        (updPort p (fun r => { r with out := r.out ++ [.haltNotice f], halted := true }) base)) ∧
    ((rightsOf p s).framePolicy = .halt → (port p s).halted = false →
      12 ≤ q.out.length + q.reservations → exec (.frameError p n f) s = .next
        (updPort p (fun r => { r with dropped := min (r.dropped + 1) 255, halted := true }) base))

/-- A HALTED port and a full one (R162), for every request but a poll: HALTED refuses all but STATUS, RESUME_PORT and PORT_RESET, and what finds no free unreserved place is discarded, but for a PORT_RESET of the right length. UNKNOWN_REQUEST_KIND at a port that takes it, HALTED or not for the kinds 31 to 33 (log 23): refused BAD_REQUEST, naming 255 (R162, R176). -/
def Obligations.HaltedAndFullPortsTurnRequestsAway : Prop :=
  (∀ (s : State) (i : Instr) (x : Xfer) (k : Byte), placed i = some (x, k) →
    ((port x.port s).halted = true → k ≠ 31 → k ≠ 32 → k ≠ 33 → HasPlace x s →
      exec i s = .next (answered x (.reply x.tag k .halted []) s)) ∧
    ((port x.port s).halted = true → k ≠ 31 → k ≠ 32 → k ≠ 33 → ¬HasPlace x s →
      exec i s = .next (discarded x s)) ∧
    ((port x.port s).halted = false ∨ k = 31 ∨ k = 32 ∨ k = 33 → (∀ y, i ≠ .portReset y) →
      ¬HasPlace x s → exec i s = .next (discarded x s))) ∧
  (∀ (s : State) (x : Xfer) (kind n : Byte),
    (port x.port s).halted = false ∨ kind = 31 ∨ kind = 32 ∨ kind = 33 → HasPlace x s →
    exec (.unknownRequestKind x kind n) s = .next
      (answered x (.reply x.tag kind .badRequest [.num 1 255]) s))

/-- The refusals that follow at intake (R163, R164, R165): NO_CREDIT for the service path and CONVERT, then DENIED or the empty DONE of ABSORB with ACCESS_VIOLATION raised, then QUIESCED for the SUBMIT class, and BUSY for CONVERT. None of them joins a queue. A direct request of the supervisor from a port that holds the SUPERVISE right and not the role is refused NOT_SUPERVISOR and changes nothing (R155): RELEASE_SUPERVISOR to SET_RIGHTS, the kinds 17 to 26. A refusal whose rule names no field carries an empty data part (R176); that the NOT_SUPERVISOR of a CHECK_IN is one of these is the model's choice (log 12). -/
def Obligations.CreditRightAndQuiesceAreJudgedInOrder : Prop :=
  (∀ (s : State) (i : Instr) (x : Xfer) (k : Nat), i.request = some (x, k) → Takes x s →
    let no (c : Code) (t : State) : Host.Outcome State Fault Refusal :=
      .next (answered x (.reply x.tag (BitVec.ofNat 8 k) c []) t)
    (1 ≤ k → k ≤ 15 → ¬HasCredit x s → exec i s = no .noCredit s) ∧
    ((15 < k ∨ HasCredit x s) → (rightsOf x.port s).grants (needOf k) = false →
      exec i s = no (if (rightsOf x.port s).violation = .absorb then .done else .denied)
        (raiseWithSup x.port .accessViolation s)) ∧
    (1 ≤ k → k ≤ 3 → HasCredit x s → (rightsOf x.port s).submit = true →
      s.sup.quiesce ≠ .running → exec i s = no .quiesced s) ∧
    (k = 10 → HasCredit x s → (rightsOf x.port s).consume = true →
      (port x.port s).urgent.isSome = true → exec i s = no .busy s)) ∧
  (∀ (s : State) (i : Instr) (x : Xfer) (k : Nat), i.request = some (x, k) → 17 ≤ k → k ≤ 26 →
    Takes x s → (rightsOf x.port s).supervise = true → isSup x.port s = false →
    exec i s = .next (answered x (.reply x.tag (BitVec.ofNat 8 k) .notSupervisor []) s))

/-- A request that passes every check joins the tail of its port's pending queue (R163, R165), and a CONVERT its urgent slot (R31): a place is reserved and the in-flight count goes up by 1; nothing outside the port changes. -/
def Obligations.TakenRequestsWaitForTheServicePath : Prop :=
  (∀ (s : State) (i : Instr) (x : Xfer) (r : ServiceReq), waiting i = some (x, r) → Takes x s →
    HasCredit x s → (rightsOf x.port s).grants (reqClass r).need = true →
    reqClass r ≠ .submit ∨ s.sup.quiesce = .running →
    exec i s = .next (updPort x.port (fun p =>
      { p.endTxn x.clocked with
        reservations := p.reservations + 1
        inFlight := p.inFlight + 1
        queue := p.queue ++ [{ tag := x.tag, req := r }] }) s)) ∧
  (∀ (s : State) (x : Xfer) (k : Byte) (t : BitVec 56), Takes x s → HasCredit x s →
    (rightsOf x.port s).consume = true → (port x.port s).urgent = none →
    exec (.convert x k t) s = .next (updPort x.port (fun p =>
      { p.endTxn x.clocked with
        reservations := p.reservations + 1
        inFlight := p.inFlight + 1
        urgent := some { tag := x.tag, slot := k, time := t } }) s))

/-! ## The service path -/

/-- The winner of a grant (R166): the occupied urgent slot of the port earliest in the grant order; else the overdue head of the earliest port; else the head with the highest score, the earliest port's among equals; none without a candidate. -/
def Obligations.TheWinnerIsUrgentThenOverdueThenBestScored : Prop :=
  ∀ s : State, s.sched.order.Perm [0, 1, 2, 3] →
    let place (p : PortId) : Nat := s.sched.order.idxOf p
    (∀ p : PortId, (port p s).urgent.isSome = true →
      (∀ q : PortId, place q < place p → (port q s).urgent = none) →
      winner s = some (.urgent p)) ∧
    ((∀ q : PortId, (port q s).urgent = none) →
      (∀ p : PortId, (port p s).queue ≠ [] → (port p s).overdue = true →
        (∀ q : PortId, place q < place p → (port q s).queue = [] ∨ (port q s).overdue = false) →
        winner s = some (.head p)) ∧
      ((∀ q : PortId, (port q s).queue = [] ∨ (port q s).overdue = false) →
        (∀ (p : PortId) (n : Nat), portScore p s = some n →
          (∀ (q : PortId) (m : Nat), portScore q s = some m →
            m < n ∨ m = n ∧ place p ≤ place q) →
          winner s = some (.head p)) ∧
        ((∀ q : PortId, (port q s).queue = []) → winner s = none))) ∧
    (∀ (p : PortId) (q : Queued) (l : List Queued), (port p s).queue = q :: l →
      portScore p s = some (classWeight (tuning s) (reqClass q.req) +
        (if s.sched.locality.isSome ∧ reqNames q.req = s.sched.locality
          then (tuning s).localityBonus else 0) +
        min (port p s).age (tuning s).ageMax))

/-- READ_STATION_GRANT (R32, R79, R115), and with it what every grant of a head does to the ports and the scheduler (R166, R168): the head leaves and the next starts at age 0, every other waiting head ages, then has its guard count raised and becomes overdue when the raise brings it to the limit or above (log 29), an overdue head keeping its counts (log 18), and the granted port moves to the most recent end of the grant order. The reply has the clock half in the order of R32, eligibility by R14 at the grant, the place in the re-time queue (the marks for running and not queued are free values, log 13), the last re-time report behind one presence byte (log 12), and the sequencing half in the order of R79. READ_STATION changes nothing else. A VACANT slot is answered with every field zero (log 12). -/
def Obligations.ReadStationGrantAnswersAndAgesTheLosers : Prop :=
  ∀ (s : State) (p : PortId) (tag k : Byte) (rest : List Queued),
    Wins p { tag := tag, req := .readStation k } rest s →
    let report (j : Slot) : List Field := match (station j s).lastReport with
      | none => [.optNum 2 none, .num 2 0, .num 2 0, .num 2 0, .num 2 0, .num 2 0, .num 2 0,
          .num 1 0, .num 7 0]
      | some r => [.optNum 2 (some r.target.toNat), .num 2 r.counts.moved, .num 2 r.counts.updated,
          .num 2 r.counts.carried, .num 2 r.counts.misplaced, .num 2 r.counts.skipped,
          .num 2 r.counts.leftInSealed, .num 1 r.restarts, .num 7 r.time]
    let clock (j : Slot) : List Field :=
      let c := (station j s).clk
      [.num 2 c.code, .num 1 c.zone.val, .num 1 c.action.num, .num 1 c.state.num, .optNum 7 c.anchor,
       .int 4 c.offset, .int 4 c.drift, .num 4 c.uncertainty, .num 2 c.generation.toNat,
       .num 1 c.acquisition, .num 1 c.lockOff, .num 1 c.faults,
       .optInt 4 (c.candidate.map (·.offset)),
       .num 1 ((c.candidate.map (·.confirmations)).getD 0),
       .optNum 7 c.lastAccepted, .num 7 c.lastAged,
       .bit (decide ((c.state = .locked ∨ c.state = .tracking) ∧ (station j s).sq.silent = false ∧
         (zoneEntry c.zone s).mode ≠ .noWait)),
       .bit (station j s).retiming,
       .num 1 (if s.retime.running.map (·.slot) = some j then Config.retimeRunning.toNat
         else if j ∈ s.retime.queue then s.retime.queue.idxOf j + 1
         else Config.retimeNotQueued.toNat)]
    let sequencing (j : Slot) : List Field :=
      let q := (station j s).sq
      [.num 1 q.depth, .optNum 2 (q.expected.map (·.toNat)),
       .marks ((List.range 64).map fun n => q.history.getLsbD n), .num 1 q.held.length] ++
      q.held.map (fun i => .num 2 (match block i s with
        | none => 0
        | some b => b.seq.toNat)) ++
      [.optNum 7 q.heldSince, .optNum 7 q.lastEnd, .optNum 7 q.deliveredUntil, .num 2 q.discarded,
       .num 7 q.lastArrival, .num 7 q.silenceMark, .num 7 s.silenceClock, .bit q.silent]
    let fields (j : Slot) : List Field := clock j ++ report j ++ sequencing j
    exec .readStationGrant s = .next (granted p tag 9
      (match slotOf k with
        | none => .badRequest
        | some _ => .done)
      (match slotOf k with
        | none => [.num 1 0]
        | some j => if (station j s).clk.state = .vacant then (fields j).map Field.zero else fields j)
      { s with
        ports := imap (fun q ps =>
          if q = p then { ps with queue := rest, age := 0, guards := 0, overdue := false }
          else if ps.queue = [] ∨ ps.overdue = true then ps
          else if ps.age < (tuning s).ageMax then
            { ps with age := min (ps.age + (tuning s).ageStep) (tuning s).ageMax }
          else
            { ps with guards := min (ps.guards + 1) 15
                      overdue := decide ((tuning s).guardLimit ≤ min (ps.guards + 1) 15) }) s.ports
        sched := { order := s.sched.order.filter (· ≠ p) ++ [p], locality := slotOf k } })

/-- CONVERT_GRANT (R30, R31): the refusals in order, and otherwise N(T) = T + offset + trunc((T - anchor) × drift / 10^9), held in range, with the uncertainty, the generation, the clock state and the RETIMING flag; nothing changes but what the grant itself does. What the grant of an urgent slot does (R166, R168): the slot is empty, every waiting head loses, the head of the granted port included: it ages, then has its guard count raised and becomes overdue when a raise brings it to the limit or above, which for a lowered guard limit or a raised age maximum is the model's choice (log 29), and an overdue head keeps its counts (log 18); the port moves to the most recent end of the grant order, and the locality slot is the station slot named. -/
def Obligations.ConvertAnswersFromThePresentModel : Prop :=
  (∀ (s : State) (p : PortId) (u : Urgent), WinsUrgent p u s →
    let g := grantsUrgent p (slotOf u.slot) s
    (slotOf u.slot = none →
      exec .convertGrant s = .next (granted p u.tag 10 .badRequest [.num 1 0] g)) ∧
    (∀ k : Slot, slotOf u.slot = some k →
      ((station k s).clk.state = .vacant →
        exec .convertGrant s = .next (granted p u.tag 10 .noStation [] g)) ∧
      ((station k s).clk.state ≠ .vacant → (station k s).clk.anchor = none →
        exec .convertGrant s = .next (granted p u.tag 10 .noModel [] g)) ∧
      (∀ a : Nat, (station k s).clk.state ≠ .vacant → (station k s).clk.anchor = some a →
        exec .convertGrant s = .next (granted p u.tag 10 .done
          [.num 7 (min (u.time.toNat + (station k s).clk.offset +
              (((u.time.toNat : Int) - a) * (station k s).clk.drift).tdiv 1000000000).toNat
              (2 ^ 56 - 1)),
           .num 4 (station k s).clk.uncertainty, .num 2 (station k s).clk.generation.toNat,
           .num 1 (station k s).clk.state.num, .bit (station k s).retiming] g)))) ∧
  (∀ (s : State) (p : PortId) (names : Option Slot),
    grantsUrgent p names s = { s with
      ports := imap (fun q ps =>
        let lost : PortState :=
          if ps.queue = [] ∨ ps.overdue = true then ps
          else if ps.age < (tuning s).ageMax then
            { ps with age := min (ps.age + (tuning s).ageStep) (tuning s).ageMax }
          else
            { ps with guards := min (ps.guards + 1) 15
                      overdue := decide ((tuning s).guardLimit ≤ min (ps.guards + 1) 15) }
        if q = p then { lost with urgent := none } else lost) s.ports
      sched := { order := s.sched.order.filter (· ≠ p) ++ [p], locality := names } })

/-- RELEASE_STATION_GRANT (R36): the refusals in their order, and otherwise the station ACQUIRING with its model cleared, its generation kept and last aged now; no cause and no notice. -/
def Obligations.ReleaseStationClearsAQuarantinedModel : Prop :=
  ∀ (s : State) (p : PortId) (tag b : Byte) (rest : List Queued),
    Wins p { tag := tag, req := .releaseStation b } rest s →
    let g := grantsHead p (slotOf b) s
    let no (c : Code) (d : List Field) : Host.Outcome State Fault Refusal :=
      .next (granted p tag 14 c d g)
    (isSup p s = false → exec .releaseStationGrant s = no .notSupervisor []) ∧
    (isSup p s = true → slotOf b = none →
      exec .releaseStationGrant s = no .badRequest [.num 1 0]) ∧
    (∀ k : Slot, isSup p s = true → slotOf b = some k →
      ((station k s).clk.state = .vacant → exec .releaseStationGrant s = no .noStation []) ∧
      ((station k s).clk.state ≠ .vacant → (station k s).clk.state ≠ .quarantined →
        exec .releaseStationGrant s = no .wrongState []) ∧
      ((station k s).clk.state = .quarantined →
        exec .releaseStationGrant s = .next (granted p tag 14 .done []
          (updClk k (fun c => { c with
            state := .acquiring, anchor := none, offset := 0, drift := 0, uncertainty := 0,
            acquisition := 0, lockOff := 0, faults := 0, candidate := none,
            lastAccepted := none, lastAged := now s }) g))))

/-! ## The model aging sweep -/

/-- A sweep (R44 to R48): it takes the first K non-VACANT records upward from the cursor, wrapping from 63 to 0, each at most once; they grow by trunc(elapsed × growth / 10^9) and are demoted for report age, then for the ceiling; ACQUIRING and QUARANTINED ones and all that it does not take stay; the cursor moves behind the last taken; STATION_STATE is raised on the supervisor port once for each record whose clock state changed, and on no port when the role is FREE; a station that leaves LOCKED or TRACKING gives an ABSENT_STATE notice. What makes a sweep: the interval deadline, whose next value is reckoned from now (R41); the pulse count at N (R42); START_SWEEP of the supervisor, which moves neither (R49) and is refused NOT_SUPERVISOR otherwise. Before its deadline no sweep is made (log 2, 30); PULSE_COUNT_REACHED runs the sweep that the PPS edge contains (log 4). That every taken LOCKED, TRACKING or UNRELIABLE record counts as grown is the model's choice (log 28), and so are that the notices wait in State.notices (log 5) and that an absent last accepted report time reads as 0 (log 21). -/
def Obligations.ASweepAgesTheTakenRecords : Prop :=
  (∀ s : State,
    let changed : List Slot := (sweepSlots s).filter fun k =>
      decide ((station k (sweep s)).clk.state ≠ (station k s).clk.state)
    sweepSlots s = (((List.finRange 64).map (s.sweep.cursor + ·)).filter fun k =>
      decide ((station k s).clk.state ≠ .vacant)).take (tuning s).sweepK ∧
    (∀ k : Slot, k ∈ sweepSlots s →
      let c := (station k s).clk
      let c1 := { c with
        uncertainty := min (c.uncertainty + (now s - c.lastAged) * (tuning s).growth / 1000000000)
          4294967295
        lastAged := now s }
      let c2 := if c.state = .locked ∧
          (tuning s).reportAge * 1000000 < now s - c.lastAccepted.getD 0 then
        { c1 with state := .tracking, lockOff := 0 } else c1
      let c3 := if (c2.state = .locked ∨ c2.state = .tracking) ∧
          (tuning s).ceiling < c2.uncertainty then
        { c2 with state := .unreliable, lockOff := 0 } else c2
      (c.state = .locked ∨ c.state = .tracking ∨ c.state = .unreliable →
        station k (sweep s) = { station k s with clk := c3 }) ∧
      (c.state = .acquiring ∨ c.state = .quarantined → station k (sweep s) = station k s)) ∧
    (∀ k : Slot, k ∉ sweepSlots s → station k (sweep s) = station k s) ∧
    (sweepSlots s).length ≤ (tuning s).sweepK ∧ (sweepSlots s).Nodup ∧
    (∀ k ∈ sweepSlots s, (station k s).clk.state ≠ .vacant) ∧
    (sweep s).sweep = { s.sweep with
      cursor := match (sweepSlots s).getLast? with
        | some k => k + 1
        | none => s.sweep.cursor } ∧
    (sweep s).notices = s.notices ++ ((sweepSlots s).filter fun k =>
      (station k s).clk.state.canBeEligible && !(station k (sweep s)).clk.state.canBeEligible).map
        (fun k => { slot := k, status := .absentState }) ∧
    (∀ p : PortId, port p (sweep s) =
      if isSup p s = true then (PortState.raise · .stationState)^[changed.length] (port p s)
      else port p s) ∧
    (sweep s).tb = s.tb ∧ (sweep s).pool = s.pool ∧ (sweep s).ring = s.ring ∧
    (sweep s).groups = s.groups ∧ (sweep s).sup = s.sup ∧ (sweep s).sched = s.sched ∧
    (sweep s).retime = s.retime ∧ (sweep s).silenceClock = s.silenceClock) ∧
  (∀ s : State,
    (∀ d : Nat, s.sweep.deadline = some d → d ≤ now s →
      exec .intervalDeadline s = .next { sweep s with sweep := { (sweep s).sweep with
        deadline := some (min (now s + (tuning s).sweepN * 1000000) (2 ^ 56 - 1)) } }) ∧
    (s.sweep.deadline = none ∨ (∃ d ∈ s.sweep.deadline, now s < d) →
      exec .intervalDeadline s = .next s) ∧
    ((tuning s).trigger = .pulse → (tuning s).sweepN ≤ s.sweep.pulses →
      exec .pulseCountReached s = .next (sweep { s with sweep := { s.sweep with pulses := 0 } })) ∧
    (∀ (p : PortId) (tag : Byte) (rest : List Queued), Wins p { tag := tag, req := .startSweep } rest s →
      let g := grantsHead p none s
      (isSup p s = false →
        exec .startSweepGrant s = .next (granted p tag 15 .notSupervisor [] g)) ∧
      (isSup p s = true →
        let clks := (sweepSlots s).map fun k => (station k s).clk
        let after := (sweepSlots s).map fun k => (station k (sweep s)).clk
        exec .startSweepGrant s = .next (granted p tag 15 .done
          [.num 1 clks.length,
           .num 1 (clks.filter fun c => c.state.aged).length,
           .num 1 (clks.filter fun c => c.state == .locked &&
             decide ((tuning s).reportAge * 1000000 < now s - c.lastAccepted.getD 0)).length,
           .num 1 ((clks.zip after).filter fun e =>
             e.1.state != .unreliable && e.2.state == .unreliable).length,
           .num 1 (sweep s).sweep.cursor.val] (sweep g)))))

/-! ## Timing reports -/

/-- The refusals of R18 at SUBMIT_REPORT_GRANT, in order: no station state changes, and the reply carries the clock state and generation as they stand (R17). A slot above 63 has no record; its fields read as a VACANT one's (log 12). A report that passes is ANCHORED when the station is ACQUIRING without an anchor, and otherwise ACCEPTED, REJECTED or STEP_TAKEN. -/
def Obligations.ReportRefusalsComeInOrder : Prop :=
  ∀ (s : State) (p : PortId) (tag : Byte) (r : ReportReq) (rest : List Queued),
    Wins p { tag := tag, req := .submitReport r } rest s →
    let g := grantsHead p (slotOf r.slot) s
    let m : Int := (r.tn.toNat : Int) - r.ts.toNat
    (slotOf r.slot = none → exec .submitReportGrant s = .next (tryQuiesceGrant
      (granted p tag 2 .badRequest [.num 1 r.slot.toNat, .num 1 0, .num 2 0, .optInt 4 none,
        .num 1 0, .num 1 0, .num 1 0] g))) ∧
    (∀ k : Slot, slotOf r.slot = some k →
      let c := (station k s).clk
      let no (code : Code) : Host.Outcome State Fault Refusal :=
        .next (tryQuiesceGrant (granted p tag 2 code
          [.num 1 r.slot.toNat, .num 1 c.state.num, .num 2 c.generation.toNat, .optInt 4 none,
            .num 1 c.faults, .num 1 ((c.candidate.map fun e => e.confirmations).getD 0)] g))
      (c.state = .vacant → exec .submitReportGrant s = no .noStation) ∧
      (c.state = .quarantined → exec .submitReportGrant s = no .quarantinedStation) ∧
      (c.state ≠ .vacant → c.state ≠ .quarantined →
        (∀ a : Nat, c.anchor = some a → r.ts.toNat ≤ a →
          exec .submitReportGrant s = no .staleReport) ∧
        ((∀ a ∈ c.anchor, a < r.ts.toNat) →
          (m < -2147483648 ∨ 2147483647 < m → exec .submitReportGrant s = no .offsetRange) ∧
          (-2147483648 ≤ m → m ≤ 2147483647 →
            ∃ (t : State) (code : Code) (data : List Field), exec .submitReportGrant s = .next t ∧
              (port p t).out = (port p s).out ++ [.reply tag 2 code data] ∧
              (c.state = .acquiring ∧ c.anchor = none → code = .anchored) ∧
              (¬(c.state = .acquiring ∧ c.anchor = none) →
                code = .accepted ∨ code = .rejected ∨ code = .stepTaken)))))

/-- The anchoring of a model (R19), with the completion that an acquisition count of 1 makes at once (R22), the STATION_STATE of a completed acquisition (R16) and the re-time notice of the new generation (R29), whose effect ARetimeStartsAndStepsThroughItsSnapshot gives. -/
def Obligations.AReportAnchorsAnAcquiringStation : Prop :=
  ∀ (s : State) (p : PortId) (tag : Byte) (r : ReportReq) (rest : List Queued) (k : Slot),
    Wins p { tag := tag, req := .submitReport r } rest s → slotOf r.slot = some k →
    let c := (station k s).clk
    let t := tuning s
    let m : Int := (r.tn.toNat : Int) - r.ts.toNat
    let g := grantsHead p (slotOf r.slot) s
    c.state = .acquiring → c.anchor = none → -2147483648 ≤ m → m ≤ 2147483647 →
    let c1 := { c with
      anchor := some r.ts.toNat, offset := m, drift := 0, uncertainty := t.initialUncertainty,
      generation := c.generation + 1, faults := 0, lockOff := 0, candidate := none,
      lastAccepted := some (now s), lastAged := now s,
      acquisition := if t.acquisition ≤ 1 then 0 else 1,
      state := if t.acquisition ≤ 1 then (if r.lock = 0 then .tracking else .locked)
        else .acquiring }
    exec .submitReportGrant s = .next (tryQuiesceGrant (granted p tag 2 .anchored
      [.num 1 r.slot.toNat, .num 1 c1.state.num, .num 2 (c.generation + 1).toNat, .optInt 4 none,
        .num 1 0, .num 1 0]
      (retimeNotice k (if t.acquisition ≤ 1
        then raiseWithSup p .stationState (updClk k (fun _ => c1) g)
        else updClk k (fun _ => c1) g))))

/-- An accepted report (R20 to R23): the residual within the gate, taken from the prediction, a network time held in range (R9, log 9); the drift by the smoothed rate, held within 200000 ppb; the line through the mark; and the clock state by the acquisition count or the lock flag, with STATION_STATE when it changes. -/
def Obligations.AnAcceptedReportMovesTheModel : Prop :=
  ∀ (s : State) (p : PortId) (tag : Byte) (r : ReportReq) (rest : List Queued) (k : Slot) (a : Nat),
    Wins p { tag := tag, req := .submitReport r } rest s → slotOf r.slot = some k →
    let c := (station k s).clk
    let t := tuning s
    let m : Int := (r.tn.toNat : Int) - r.ts.toNat
    let g := grantsHead p (slotOf r.slot) s
    c.state ≠ .vacant → c.state ≠ .quarantined → c.anchor = some a → a < r.ts.toNat →
    -2147483648 ≤ m → m ≤ 2147483647 →
    let predicted : Nat := min
      (r.ts.toNat + c.offset + (((r.ts.toNat : Int) - a) * c.drift).tdiv 1000000000).toNat
      (2 ^ 56 - 1)
    let res : Int := (r.tn.toNat : Int) - predicted
    res.natAbs ≤ t.baseGate + c.uncertainty →
    let lock : Bool := r.lock != 0
    let drift : Int := if 1000000 ≤ r.ts.toNat - a then
        max (-200000) (min 200000 (c.drift +
          ((res * 1000000000).tdiv ((r.ts.toNat - a : Nat) : Int)).tdiv ((2 ^ t.smoothing : Nat) : Int)))
      else c.drift
    let after : ClockState × Nat × Nat := match c.state with
      | .acquiring => if t.acquisition ≤ c.acquisition + 1
          then (if lock then .locked else .tracking, 0, 0)
          else (.acquiring, c.acquisition + 1, c.lockOff)
      | .locked => if lock then (.locked, c.acquisition, 0)
          else if t.lockOffFilter ≤ c.lockOff + 1 then (.tracking, c.acquisition, 0)
          else (.locked, c.acquisition, c.lockOff + 1)
      | _ => (if lock then .locked else .tracking, c.acquisition, 0)
    let c1 := { c with
      anchor := some r.ts.toNat, offset := m, drift := drift,
      uncertainty := min (res.natAbs + t.uncertaintyFloor) 4294967295, faults := 0,
      candidate := none, lastAccepted := some (now s), lastAged := now s,
      state := after.1, acquisition := after.2.1, lockOff := after.2.2 }
    exec .submitReportGrant s = .next (tryQuiesceGrant (granted p tag 2 .accepted
      [.num 1 r.slot.toNat, .num 1 after.1.num, .num 2 c.generation.toNat,
        .optInt 4 (some (max (-2147483648) (min 2147483647 res))), .num 1 0, .num 1 0]
      (if after.1 ≠ c.state then raiseWithSup p .stationState (updClk k (fun _ => c1) g)
       else updClk k (fun _ => c1) g)))

/-- A report that misses the gate (R20, R24 to R28), its residual taken from the prediction, a network time held in range (R9, log 9): the step candidate is updated first; at the confirm count the model steps, with STEP_TAKEN and a re-time notice (its effect is in ARetimeStartsAndStepsThroughItsSnapshot); otherwise a fault is counted, and at the threshold the fault action is taken, with STATION_FAULT, and a station that leaves LOCKED or TRACKING gives an ABSENT_STATE notice (R15), which waits in State.notices (log 5). -/
def Obligations.ARejectedReportStepsOrFaults : Prop :=
  ∀ (s : State) (p : PortId) (tag : Byte) (r : ReportReq) (rest : List Queued) (k : Slot) (a : Nat),
    Wins p { tag := tag, req := .submitReport r } rest s → slotOf r.slot = some k →
    let c := (station k s).clk
    let t := tuning s
    let m : Int := (r.tn.toNat : Int) - r.ts.toNat
    let g := grantsHead p (slotOf r.slot) s
    c.state ≠ .vacant → c.state ≠ .quarantined → c.anchor = some a → a < r.ts.toNat →
    -2147483648 ≤ m → m ≤ 2147483647 →
    let predicted : Nat := min
      (r.ts.toNat + c.offset + (((r.ts.toNat : Int) - a) * c.drift).tdiv 1000000000).toNat
      (2 ^ 56 - 1)
    let res : Int := (r.tn.toNat : Int) - predicted
    t.baseGate + c.uncertainty < res.natAbs →
    let lock : Bool := r.lock != 0
    let held : Field := .optInt 4 (some (max (-2147483648) (min 2147483647 res)))
    let confirmed : Nat := match c.candidate with
      | none => 1
      | some e => if (m - e.offset).natAbs ≤ t.baseGate then e.confirmations + 1 else 1
    let change (c1 : ClockHalf) (u : State) : State :=
      if c1.state ≠ c.state then raiseWithSup p .stationState u else u
    (t.stepConfirm ≤ confirmed →
      let after : ClockState × Nat × Nat := match c.state with
        | .acquiring => if t.acquisition ≤ 1 then (if lock then .locked else .tracking, 0, 0)
            else (.acquiring, 1, c.lockOff)
        | .locked => if lock then (.locked, c.acquisition, 0)
            else if t.lockOffFilter ≤ c.lockOff + 1 then (.tracking, c.acquisition, 0)
            else (.locked, c.acquisition, c.lockOff + 1)
        | _ => (if lock then .locked else .tracking, c.acquisition, 0)
      let c1 := { c with
        anchor := some r.ts.toNat, offset := m, uncertainty := t.initialUncertainty,
        generation := c.generation + 1, faults := 0, candidate := none,
        lastAccepted := some (now s), lastAged := now s,
        state := after.1, acquisition := after.2.1, lockOff := after.2.2 }
      exec .submitReportGrant s = .next (tryQuiesceGrant (granted p tag 2 .stepTaken
        [.num 1 r.slot.toNat, .num 1 after.1.num, .num 2 (c.generation + 1).toNat, held,
          .num 1 0, .num 1 0]
        (retimeNotice k (change c1 (raiseWithSup p .stepTaken (updClk k (fun _ => c1) g))))))) ∧
    (confirmed < t.stepConfirm → c.faults + 1 < t.faultThreshold →
      exec .submitReportGrant s = .next (tryQuiesceGrant (granted p tag 2 .rejected
        [.num 1 r.slot.toNat, .num 1 c.state.num, .num 2 c.generation.toNat, held,
          .num 1 (c.faults + 1), .num 1 confirmed, .bit false]
        (updClk k (fun _ => { c with
          candidate := some { offset := m, confirmations := confirmed }
          faults := c.faults + 1 }) g)))) ∧
    (confirmed < t.stepConfirm → t.faultThreshold ≤ c.faults + 1 →
      let c1 : ClockHalf := match c.action with
        | .notify => { c with candidate := some { offset := m, confirmations := confirmed },
                              faults := 0 }
        | .reacquire => { c with
            anchor := none, offset := 0, drift := 0, uncertainty := 0, acquisition := 0,
            lockOff := 0, faults := 0, candidate := none, lastAccepted := none,
            state := .acquiring, lastAged := now s }
        | .quarantine => { c with
            state := .quarantined, candidate := none, acquisition := 0, lockOff := 0, faults := 0 }
      let u := change c1 (raiseWithSup p .stationFault (updClk k (fun _ => c1) g))
      let lost := c.action ≠ .notify ∧ (c.state = .locked ∨ c.state = .tracking)
      exec .submitReportGrant s = .next (tryQuiesceGrant (granted p tag 2 .rejected
        [.num 1 r.slot.toNat, .num 1 c1.state.num, .num 2 c.generation.toNat, held,
          .num 1 0, .num 1 (if c.action = .notify then confirmed else 0), .bit true]
        { u with notices := if lost then s.notices ++ [{ slot := k, status := .absentState }]
                            else s.notices })))

/-! ## Block intake -/

/-- The classification of R62 and Table 4-4 by the distance of R11: a match in use first, then FIRST without an expected sequence, then by d = (seq - expected) mod 65536 and the history mark of the number behind by 65536 - d. -/
def Obligations.ClassificationFollowsTheDistance : Prop :=
  ∀ (s : State) (k : Slot) (seq : SeqNo),
    ((∃ e ∈ s.pool.used, e.2.slot = k ∧ e.2.seq = seq) → classify k seq s = .duplicateInUse) ∧
    ((∀ e ∈ s.pool.used, ¬(e.2.slot = k ∧ e.2.seq = seq)) →
      ((station k s).sq.expected = none → classify k seq s = .first) ∧
      (∀ e : SeqNo, (station k s).sq.expected = some e →
        let d := (seq.toNat + 65536 - e.toNat) % 65536
        let mark := (station k s).sq.history.getLsbD (65535 - d)
        (d = 0 → classify k seq s = .inOrder) ∧
        (1 ≤ d → d ≤ 64 → classify k seq s = .ahead) ∧
        (65 ≤ d → d ≤ 32767 → classify k seq s = .restart) ∧
        (65472 ≤ d → mark = true → classify k seq s = .duplicateInHistory) ∧
        (65472 ≤ d → mark = false → classify k seq s = .lateFill (65536 - d)) ∧
        (32768 ≤ d → d < 65472 → classify k seq s = .stale)))

/-- The first four checks at SUBMIT_BLOCK_GRANT (R60), in order: no state changes but what the grant itself does, and the block is no arrival. The refusals after the arrival has been counted (R51, R53, R61 to R63): BAD_REQUEST by the first field out of range, DUPLICATE in use or in history (which mark is which is a free value, log 13), STALE with the expected sequence, written without a presence byte by the model's choice (log 12), POOL_FULL with POOL_EXHAUSTED raised (R56), and FUTURE with the converted start and the limit, each held in range (R9, log 9). Each takes no record and leaves the sequencing state as it was but for the arrival. -/
def Obligations.BlockRefusalsComeInOrder : Prop :=
  (∀ (s : State) (p : PortId) (tag : Byte) (b : BlockReq) (rest : List Queued),
    Wins p { tag := tag, req := .submitBlock b } rest s → s.sealMade = false →
    let g := grantsHead p (slotOf b.slot) s
    let no (code : Code) (more : List Field) : Host.Outcome State Fault Refusal :=
      .next (tryQuiesceGrant (granted p tag 1 code
        ([.num 1 b.slot.toNat, .num 2 b.seq.toNat, .num 2 s.pool.freeCount] ++ more) g))
    (s.ring.state = .stopped → exec .submitBlockGrant s = no .ringStopped []) ∧
    (s.ring.state = .active → slotOf b.slot = none →
      exec .submitBlockGrant s = no .badRequest [.num 1 0]) ∧
    (∀ k : Slot, s.ring.state = .active → slotOf b.slot = some k →
      ((station k s).clk.state = .vacant → exec .submitBlockGrant s = no .noStation []) ∧
      ((station k s).clk.state = .acquiring → exec .submitBlockGrant s = no .noModel []) ∧
      ((station k s).clk.state = .quarantined →
        exec .submitBlockGrant s = no .quarantinedStation []))) ∧
  (∀ (s : State) (p : PortId) (tag : Byte) (b : BlockReq) (rest : List Queued) (k : Slot),
    Wins p { tag := tag, req := .submitBlock b } rest s → s.sealMade = false →
    s.ring.state = .active → slotOf b.slot = some k → (station k s).clk.state.aged = true →
    let g0 := grantsHead p (slotOf b.slot) s
    let g1 := updSeq k (fun q => { q with
      lastArrival := now s, silenceMark := s.silenceClock, silent := false }) g0
    let g := if (station k s).sq.silent then raiseWithSup p .stationState g1 else g1
    let no (code : Code) (more : List Field) (u : State) : Host.Outcome State Fault Refusal :=
      .next (tryQuiesceGrant (granted p tag 1 code
        ([.num 1 b.slot.toNat, .num 2 b.seq.toNat, .num 2 s.pool.freeCount] ++ more) u))
    let n := b.samples.toNat
    (n = 0 ∨ 4096 < n → exec .submitBlockGrant s = no .badRequest [.num 1 10] g) ∧
    (1 ≤ n → n ≤ 4096 →
      (8 < b.rate.toNat → exec .submitBlockGrant s = no .badRequest [.num 1 12] g) ∧
      (b.rate.toNat ≤ 8 →
        (b.channels.toNat = 0 ∨ 6 < b.channels.toNat →
          exec .submitBlockGrant s = no .badRequest [.num 1 13] g) ∧
        (1 ≤ b.channels.toNat → b.channels.toNat ≤ 6 →
          4 * s.ring.lengthUs < duration n b.rate.toNat →
          exec .submitBlockGrant s = no .badRequest [.num 1 10] g))) ∧
    (blockRangeFault b s.ring.lengthUs = none →
      (classify k b.seq s = .duplicateInUse →
        exec .submitBlockGrant s = no .duplicate [.bit Config.duplicateInUse] g) ∧
      (classify k b.seq s = .duplicateInHistory →
        exec .submitBlockGrant s = no .duplicate [.bit !Config.duplicateInUse] g) ∧
      (classify k b.seq s = .stale → exec .submitBlockGrant s =
        no .stale [.num 2 ((station k s).sq.expected.getD 0).toNat] g) ∧
      (classify k b.seq s ≠ .duplicateInUse → classify k b.seq s ≠ .duplicateInHistory →
        classify k b.seq s ≠ .stale →
        (s.pool.head = none → exec .submitBlockGrant s =
          no .poolFull [] (raiseWithSup p .poolExhausted g)) ∧
        (∀ i : Nat, s.pool.head = some i →
          let ns := (station k s).clk.convert b.start.toNat
          let limit := latestAllowed s
          limit < ns → exec .submitBlockGrant s = no .future [.num 7 ns, .num 7 limit] g))))

/-- A block of class AHEAD with room in its station's list is HELD (R54, R66): a record from the head of the free list is filled, it joins the list in its place in ascending order of the distance ahead of the expected sequence, held-since starts with an empty list, and nothing is delivered. The limit of the future tolerance is held in range (log 9), and the expected sequence of the reply has no presence byte (log 12). -/
def Obligations.ABlockAheadIsHeld : Prop :=
  ∀ (s : State) (p : PortId) (tag : Byte) (b : BlockReq) (rest : List Queued) (k : Slot) (i : Nat),
    Wins p { tag := tag, req := .submitBlock b } rest s → s.sealMade = false →
    s.ring.state = .active → slotOf b.slot = some k → (station k s).clk.state.aged = true →
    blockRangeFault b s.ring.lengthUs = none → classify k b.seq s = .ahead →
    s.pool.head = some i →
    (station k s).clk.convert b.start.toNat ≤ latestAllowed s →
    (station k s).sq.held.length < (station k s).sq.depth →
    ∃ t : State, exec .submitBlockGrant s = .next t ∧
      (port p t).out = (port p s).out ++ [.reply tag 1 .held
        [.num 1 b.slot.toNat, .num 2 b.seq.toNat, .num 2 (s.pool.freeCount - 1),
         .num 1 ((station k s).sq.held.length + 1),
         .num 2 ((station k s).sq.expected.getD 0).toNat, .num 1 0]] ∧
      block i t = some
        { slot := k, seq := b.seq, start := b.start.toNat, samples := b.samples.toNat,
          rate := b.rate.toNat, channels := b.channels.toNat, handle := b.handle,
          netStart := none, netEnd := none, generation := 0, flags := .none, place := .held } ∧
      (∀ j : Nat, j ≠ i → block j t = block j s) ∧
      (let ahead (seq : SeqNo) : Nat := (seq - (station k s).sq.expected.getD 0).toNat
       let place (j : Nat) : Nat := ((block j t).map fun e => ahead e.seq).getD 0
       ∃ lower higher : List Nat, (station k s).sq.held = lower ++ higher ∧
         (station k t).sq.held = lower ++ i :: higher ∧
         (∀ j ∈ lower, place j ≤ ahead b.seq) ∧
         (∀ j ∈ higher.head?, ahead b.seq < place j) ∧
         ((station k s).sq.held.Pairwise (fun j l => place j < place l) →
           ∀ j ∈ higher, ahead b.seq < place j)) ∧
      (station k t).sq = { (station k s).sq with
        held := (station k t).sq.held
        heldSince := if (station k s).sq.held = [] then some (now s)
          else (station k s).sq.heldSince
        lastArrival := now s, silenceMark := s.silenceClock, silent := false } ∧
      (station k t).clk = (station k s).clk ∧
      (∀ j : Slot, j ≠ k → station j t = station j s) ∧ t.ring = s.ring ∧ t.tb = s.tb

/-- What a taken block does. First the whole of a SUBMIT_BLOCK_GRANT that passes every check (R59, R63): the effect of its class on the state with the arrival counted and a record filled, and the reply FILED with the fields of the block as it was filed, or HELD while it is still in the list. Then the effect of each class (R58, R64 to R69, Table 4-5), of a drain (R72), of a given-up hole (R73) and of a delivery (R70, R71): conversion, TIME_GAP and OVERLAP against the last station end by half a sample interval, delivered-until, and the filing, which AFilingReachesOpenRecordsOnly gives. Last, the forms with one delivery written out: FIRST and IN_ORDER with nothing held, AHEAD at reorder depth 0, RESTART with nothing held, and LATE_FILL; other stations stay. Several deliveries of one event are filed and tested one after the other, and a deferred tuning set is taken after the seals (R114): both as log 14 reads the rules, the seal latched in sealMade (log 7). The limit of the future tolerance is held in range (log 9), absent fields that no run meets read as 0 (log 21), and the layout of the replies is log 12. -/
def Obligations.ADeliveredBlockIsFiled : Prop :=
  (∀ (s : State) (p : PortId) (tag : Byte) (b : BlockReq) (rest : List Queued) (k : Slot) (i : Nat)
      (c : BlockClass),
    Wins p { tag := tag, req := .submitBlock b } rest s → s.ring.state = .active →
    slotOf b.slot = some k → (station k s).clk.state.aged = true →
    blockRangeFault b s.ring.lengthUs = none → classify k b.seq s = c →
    c ≠ .duplicateInUse → c ≠ .duplicateInHistory → c ≠ .stale → s.pool.head = some i →
    (station k s).clk.convert b.start.toNat ≤ latestAllowed s →
    let g1 := updSeq k (fun q => { q with
      lastArrival := now s, silenceMark := s.silenceClock, silent := false })
      (grantsHead p (slotOf b.slot) s)
    let g := if (station k s).sq.silent then raiseWithSup p .stationState g1 else g1
    let filled : Block :=
      { slot := k, seq := b.seq, start := b.start.toNat, samples := b.samples.toNat,
        rate := b.rate.toNat, channels := b.channels.toNat, handle := b.handle,
        netStart := none, netEnd := none, generation := 0, flags := .none, place := .held }
    let r := takeBlock k i b.seq c { g with pool := s.pool.take filled }
    let answers (code : Code) (more : List Field) : Prop :=
      exec .submitBlockGrant s = .next (tryQuiesceGrant (finishSeals (granted p tag 1 code
        ([.num 1 b.slot.toNat, .num 2 b.seq.toNat, .num 2 r.1.pool.freeCount] ++ more) r.1)))
    (∀ e ∈ r.2.find? (fun e => e.1 == i), answers .filed
      [.num 4 (match e.2.place with
         | .filed n => n
         | .held => 0),
       .flags [e.2.flags.gap, e.2.flags.timeGap, e.2.flags.overlap, e.2.flags.late,
         e.2.flags.lateFill, e.2.flags.misplaced, e.2.flags.retimed],
       .num 7 (e.2.netStart.getD 0), .num 7 (e.2.netEnd.getD 0), .num 2 e.2.generation.toNat,
       .bit (decide (c = .restart)), .num 1 (r.2.length - 1)]) ∧
    (r.2.find? (fun e => e.1 == i) = none → answers .held
      [.num 1 (station k r.1).sq.held.length,
       .num 2 ((station k r.1).sq.expected.getD 0).toNat, .num 1 r.2.length])) ∧
  (∀ (s : State) (k : Slot) (i : Nat) (seq : SeqNo),
    let q := (station k s).sq
    let ahead (n : SeqNo) : Nat := (n - q.expected.getD 0).toNat
    let place (j : Nat) : Nat := ((block j s).map fun e => ahead e.seq).getD 0
    (takeBlock k i seq .first s =
      let d := deliver i false false s
      let e := drainAll k (updSeq k (fun q => { q with expected := some (seq + 1), history := 1 }) d.1)
      (e.1, d.2 ++ e.2)) ∧
    (takeBlock k i seq .inOrder s =
      let d := deliver i false false s
      let e := drainAll k (updSeq k (fun q => { q with
        expected := q.expected.map (· + 1), history := (q.history <<< 1) ||| 1 }) d.1)
      (e.1, d.2 ++ e.2)) ∧
    (q.depth = 0 → takeBlock k i seq .ahead s =
      let d := deliver i true false (updSeq k (fun q => { q with
        expected := q.expected.map (· + BitVec.ofNat 16 (ahead seq))
        history := q.history <<< ahead seq }) s)
      (updSeq k (fun q => { q with
        expected := q.expected.map (· + 1), history := (q.history <<< 1) ||| 1 }) d.1, d.2)) ∧
    (∀ lower higher : List Nat, q.depth ≠ 0 → q.held = lower ++ higher →
      (∀ j ∈ lower, place j ≤ ahead seq) → (∀ j ∈ higher.head?, ahead seq < place j) →
      let joined := updSeq k (fun q => { q with
        held := lower ++ i :: higher
        heldSince := if q.held = [] then some (now s) else q.heldSince }) s
      takeBlock k i seq .ahead s =
        if q.held.length < q.depth then (joined, []) else giveUp k joined) ∧
    (takeBlock k i seq .restart s =
      let h := deliverHeld none q.held (updSeq k (fun q => { q with held := [] }) s)
      let d := deliver i true false h.1
      (updSeq k (fun q => { q with
        expected := some (seq + 1), heldSince := none
        history := restartHistory (seq + 1) (h.2 ++ d.2) }) d.1, h.2 ++ d.2)) ∧
    (∀ n : Nat, takeBlock k i seq (.lateFill n) s =
      let d := deliver i false true s
      (updSeq k (fun q => { q with history := q.history ||| (1#64 <<< (n - 1)) }) d.1, d.2)) ∧
    (∀ (l : Delivered) (n : Nat), n < 64 → ((restartHistory seq l).getLsbD n = true ↔
      ∃ e ∈ l, (seq - e.2.seq).toNat = n + 1))) ∧
  (∀ (s : State) (k : Slot) (n : Nat),
    let q := (station k s).sq
    let passed (u : State) : State := updSeq k (fun q => { q with
      expected := q.expected.map (· + 1), history := (q.history <<< 1) ||| 1 }) u
    (drainAll k s =
      let d := drain k q.held.length s
      (updSeq k (fun q => { q with
        heldSince := if q.held = [] then none else some (now d.1) }) d.1, d.2)) ∧
    (q.held = [] → drain k n s = (s, []) ∧ giveUp k s = (s, [])) ∧
    (∀ (i : Nat) (l : List Nat) (b : Block) (e : SeqNo),
      q.held = i :: l → block i s = some b → q.expected = some e →
      (b.seq ≠ e → drain k n s = (s, [])) ∧
      (b.seq = e → drain k (n + 1) s =
        let d := deliver i false false (updSeq k (fun q => { q with held := l }) s)
        let r := drain k n (passed d.1)
        (r.1, d.2 ++ r.2)) ∧
      (giveUp k s =
        let d := deliver i true false (updSeq k (fun q => { q with
          held := l
          expected := some (e + BitVec.ofNat 16 (b.seq - e).toNat)
          history := q.history <<< (b.seq - e).toNat }) s)
        let r := drainAll k (passed d.1)
        (r.1, d.2 ++ r.2))) ∧
    (∀ (previous : Option SeqNo) (i : Nat) (l : List Nat) (b : Block), block i s = some b →
      deliverHeld previous [] s = (s, []) ∧
      deliverHeld previous (i :: l) s =
        let d := deliver i (match previous with
          | none => true
          | some a => decide (b.seq ≠ a + 1)) false s
        let r := deliverHeld (some b.seq) l d.1
        (r.1, d.2 ++ r.2))) ∧
  (∀ (s : State) (i : Nat) (gap fill : Bool) (b : Block), block i s = some b →
    let c := (station b.slot s).clk
    let q := (station b.slot s).sq
    let lasts := duration b.samples b.rate
    let half := (sampleInterval b.rate).getD 0 / 2
    let off : Bool × Bool := match q.lastEnd with
      | none => (false, false)
      | some e => if fill then (false, false)
          else (decide (e + half < b.start), decide (b.start + half < e))
    let netEnd := min (c.convert b.start + lasts) (2 ^ 56 - 1)
    let b1 : Block := { b with
      netStart := some (c.convert b.start), netEnd := some netEnd, generation := c.generation
      flags := { b.flags with
        gap := b.flags.gap || gap, timeGap := b.flags.timeGap || off.1
        overlap := b.flags.overlap || off.2, lateFill := b.flags.lateFill || fill } }
    let f := fileBlock i b1 (updBlock i (fun _ => b1) (updSeq b.slot (fun q => { q with
      lastEnd := if fill then q.lastEnd else some (min (b.start + lasts) (2 ^ 56 - 1))
      deliveredUntil := some (max (q.deliveredUntil.getD 0) netEnd) }) s))
    deliver i gap fill s = (f.1, [(i, f.2)])) ∧
  (∀ (s : State) (p : PortId) (tag : Byte) (b : BlockReq) (rest : List Queued) (k : Slot) (i : Nat),
    Wins p { tag := tag, req := .submitBlock b } rest s → s.sealMade = false →
    s.ring.state = .active → s.ring.records ≠ [] → slotOf b.slot = some k →
    (station k s).clk.state.aged = true → blockRangeFault b s.ring.lengthUs = none →
    s.pool.head = some i →
    (station k s).clk.convert b.start.toNat ≤ latestAllowed s →
    let q := (station k s).sq
    let seen := { q with lastArrival := now s, silenceMark := s.silenceClock, silent := false }
    let lasts := duration b.samples.toNat b.rate.toNat
    let half := (sampleInterval b.rate.toNat).getD 0 / 2
    let netStart := (station k s).clk.convert b.start.toNat
    let netEnd := min (netStart + lasts) (2 ^ 56 - 1)
    let until_ := some (max (q.deliveredUntil.getD 0) netEnd)
    let ends := some (min (b.start.toNat + lasts) (2 ^ 56 - 1))
    let filed (half_ : SeqHalf) (gap fill restart : Bool) : Prop :=
      let off : Bool × Bool := match q.lastEnd with
        | none => (false, false)
        | some e => if fill then (false, false)
            else (decide (e + half < b.start.toNat), decide (b.start.toNat + half < e))
      ∃ (t : State) (n : Nat) (late misplaced : Bool), exec .submitBlockGrant s = .next t ∧
        (port p t).out = (port p s).out ++ [.reply tag 1 .filed
          [.num 1 b.slot.toNat, .num 2 b.seq.toNat, .num 2 t.pool.freeCount, .num 4 n,
           .flags [gap, off.1, off.2, late, fill, misplaced, false], .num 7 netStart,
           .num 7 netEnd, .num 2 (station k s).clk.generation.toNat, .bit restart, .num 1 0]] ∧
        (station k t).sq = half_ ∧ (station k t).clk = (station k s).clk ∧
        (∀ j : Slot, j ≠ k → station j t = station j s) ∧ t.tb = s.tb
    (classify k b.seq s = .first → q.held = [] → filed { seen with
      expected := some (b.seq + 1), history := 1, heldSince := none, lastEnd := ends,
      deliveredUntil := until_ } false false false) ∧
    (classify k b.seq s = .inOrder → q.held = [] → filed { seen with
      expected := some (b.seq + 1), history := (q.history <<< 1) ||| 1, heldSince := none,
      lastEnd := ends, deliveredUntil := until_ } false false false) ∧
    (∀ e : SeqNo, q.expected = some e → classify k b.seq s = .ahead → q.depth = 0 → filed { seen with
      expected := some (b.seq + 1), history := (q.history <<< (b.seq - e).toNat <<< 1) ||| 1,
      lastEnd := ends, deliveredUntil := until_ } true false false) ∧
    (classify k b.seq s = .restart → q.held = [] → filed { seen with
      expected := some (b.seq + 1), history := 1, heldSince := none, lastEnd := ends,
      deliveredUntil := until_ } true false true) ∧
    (∀ n : Nat, classify k b.seq s = .lateFill n → filed { seen with
      history := q.history ||| (1#64 <<< (n - 1)), deliveredUntil := until_ } false true false))

/-- A filing. Where it goes (R10, R87 to R91): the OPEN record of the block's own epoch; carried forward, LATE, to the oldest OPEN record, the epoch above the newest opened first when none is OPEN; the record of an epoch above the newest, every epoch up to it opened on demand while its start lies within the future tolerance; and otherwise the newest record, MISPLACED, the epoch above it opened first when it is not OPEN. What it does (R54, R89, R92 to R95, R106): the block's place and flags, and each OPEN record by `filedRecord`: the list, the late count, the counts held at 255, the gap marks, an ADAPTIVE deadline extended (a saturated count or total extends nothing: log 17), and the station passed where its coverage reaches the end; then the seal test of the records that it changed (R109, in TheEndEventSetsTheZoneDeadlines). The limit of the future tolerance and the start and end of an epoch are held in range (log 9), and an absent origin or network start, which no run meets, reads as 0 (log 21). Last, for a block whose own record is OPEN: no other entry, and no SEALED or RELEASED record, changes. -/
def Obligations.AFilingReachesOpenRecordsOnly : Prop :=
  (∀ (s : State) (t : Nat) (newestRec : Record), newest s = some newestRec →
    let start (n : Nat) : Nat :=
      min (s.ring.origin.getD 0 + n * s.ring.lengthUs) (2 ^ 56 - 1)
    let open_ (r : Record) : Bool := decide (r.state = .opened)
    let carriedIn (u : State) : Option Target :=
      (u.ring.records.find? open_).map fun r => { epoch := r.epoch, late := true, misplaced := false }
    let carried : State × Option Target :=
      if (s.ring.records.find? open_).isSome then (s, carriedIn s)
      else (openNext s, carriedIn (openNext s))
    (s.ring.epochOf t = if t < s.ring.origin.getD 0 then none
      else some ((t - s.ring.origin.getD 0) / s.ring.lengthUs)) ∧
    (∀ (b : Block) (n : Nat), s.ring.blockOverlaps b n = true ↔
      ∃ x y : Nat, b.netStart = some x ∧ b.netEnd = some y ∧ x < start (n + 1) ∧ start n < y) ∧
    (s.ring.epochOf t = none → chooseTarget t s = carried) ∧
    (∀ e : Nat, s.ring.epochOf t = some e →
      (∀ r : Record, e ≤ newestRec.epoch → findRecord e s = some r → r.state = .opened →
        chooseTarget t s = (s, some { epoch := e, late := false, misplaced := false })) ∧
      (e ≤ newestRec.epoch → (∀ r ∈ findRecord e s, r.state ≠ .opened) →
        chooseTarget t s = carried) ∧
      (newestRec.epoch < e → e ≤ 4294967295 →
        start e ≤ latestAllowed s →
        chooseTarget t s = (openNext^[e - newestRec.epoch] s,
          some { epoch := e, late := false, misplaced := false })) ∧
      (newestRec.epoch < e →
        4294967295 < e ∨ latestAllowed s < start e →
        chooseTarget t s =
          if newestRec.state = .opened then
            (s, some { epoch := newestRec.epoch, late := false, misplaced := true })
          else (openNext s, (newest (openNext s)).map fun r =>
            { epoch := r.epoch, late := false, misplaced := true })))) ∧
  (∀ (s u : State) (i : Nat) (b : Block) (x : Target),
    chooseTarget (b.netStart.getD 0) s = (u, some x) →
    let b1 : Block := { b with
      place := .filed x.epoch
      flags := { b.flags with late := b.flags.late || x.late
                              misplaced := b.flags.misplaced || x.misplaced } }
    fileBlock i b s = (sealTest (fun r => decide (r ∉ u.ring.records)) { u with
      pool := u.pool.upd i (fun _ => b1)
      ring := { u.ring with
        records := u.ring.records.map (filedRecord u i x.epoch x.late b1) } }, b1)) ∧
  (∀ (s : State) (i e : Nat) (b : Block) (own : Record),
    (s.ring.records.map (·.epoch)).Nodup → s.ring.epochOf (b.netStart.getD 0) = some e →
    own ∈ s.ring.records → own.epoch = e → own.state = .opened →
    (∀ r ∈ newest s, e ≤ r.epoch) →
    ∀ r ∈ s.ring.records, ∀ r' ∈ (fileBlock i b s).1.ring.records, r'.epoch = r.epoch →
      (r.state ≠ .opened → r'.entries = r.entries ∧ r'.blocks = r.blocks ∧ r'.late = r.late) ∧
      (r.state = .opened →
        let old := r.entries[b.slot]
        let reaches := s.ring.blockOverlaps b r.epoch
        let gap := old.gap || (reaches && b.flags.marksGap)
        r'.blocks = (if r.epoch = e then r.blocks ++ [i] else r.blocks) ∧ r'.late = r.late ∧
        (∀ k : Slot, k ≠ b.slot → r'.entries[k] = r.entries[k]) ∧
        r'.entries[b.slot] =
          { count := if r.epoch = e ∨ reaches = true then min (old.count + 1) 255 else old.count
            gap := gap
            status := if old.status = .waiting ∧ covers b.slot r.epoch s = true then
                passedStatus gap
              else if old.status = .passed ∧ reaches = true ∧ b.flags.marksGap = true then
                .passedGap
              else old.status }))

/-! ## The ring -/

/-- START_RING_GRANT (R81, R82): the six refusals in order, each carrying now and the ring state (log 12, 13), and otherwise a ring ACTIVE with the base record opened at the epoch of now, as R85 fills it: every station eligible at the grant expected in it, every other not. -/
def Obligations.TheRingStartsAtTheEpochOfNow : Prop :=
  ∀ (s : State) (p : PortId) (tag : Byte) (origin : BitVec 56) (length : Byte) (rest : List Queued),
    Wins p { tag := tag, req := .startRing origin length } rest s →
    let g := grantsHead p none s
    let o := origin.toNat
    let l := length.toNat
    let base := (now s - o) / (l * 1000000)
    let no (c : Code) (named : List Field) : Host.Outcome State Fault Refusal :=
      .next (granted p tag 11 c (named ++ [.num 7 (now s),
        .bit (if s.ring.state = .active then Config.ringActive else !Config.ringActive)]) g)
    (isSup p s = false → exec .startRingGrant s = no .notSupervisor []) ∧
    (isSup p s = true → s.ring.state = .active → exec .startRingGrant s = no .wrongState []) ∧
    (isSup p s = true → s.ring.state = .stopped →
      (s.tb.timeSet = false → exec .startRingGrant s = no .timeUnset []) ∧
      (s.tb.timeSet = true →
        (l = 0 ∨ 120 < l → exec .startRingGrant s = no .badRequest [.num 1 7]) ∧
        (1 ≤ l → l ≤ 120 →
          (o % 1000000 ≠ 0 ∨ now s < o ∨ 4294967295 < base →
            exec .startRingGrant s = no .badRequest [.num 1 0]) ∧
          (o % 1000000 = 0 → o ≤ now s → base ≤ 4294967295 →
            ∃ r : Record, exec .startRingGrant s = .next (granted p tag 11 .done
              [.num 4 base, .num 7 (min (o + base * (l * 1000000)) (2 ^ 56 - 1)),
               .num 7 (min (o + (base + 1) * (l * 1000000)) (2 ^ 56 - 1)), .num 7 (now s)]
              { g with ring :=
                { state := .active, origin := some o, length := some l, base := some base,
                  releaseCount := 0
                  boundary := if base < 4294967295 then
                    some (min (o + (base + 1) * (l * 1000000)) (2 ^ 56 - 1)) else none
                  records := [r] } }) ∧
              r = freshRecord { s with ring :=
                { state := .active, origin := some o, length := some l, base := some base,
                  releaseCount := 0, boundary := none, records := [] } } base ∧
              r.epoch = base ∧ r.state = .opened ∧ r.ended = false ∧ r.blocks = [] ∧ r.late = 0 ∧
              (∀ k : Slot, eligible k s = false → r.entries[k].status = .notExpected) ∧
              (∀ k : Slot, eligible k s = true → (station k s).sq.deliveredUntil = none →
                r.entries[k].status = .waiting)))))

/-- BOUNDARY_EVENT (R86, R88): once now has reached the boundary deadline, every epoch from the one above the newest record up to the epoch of now, and none above 4294967295, is opened, one after the other; the deadline becomes the end of the new newest record; before it nothing happens (log 2, 30). What one opening does (R85): room made by an eviction when the ring holds 48 records, the record appended as `freshRecord` fills it (each station's share of the blocks already filed, its status by eligibility and coverage), the boundary deadline moved, and retirement (R136). What an eviction does to the oldest record (R97 to R100): an OPEN one is a forced seal; one not RELEASED is released, with no EPOCH_RELEASED; each group of its awaiting set is overrun, its cursor one on, with GROUP_OVERRUN once for each group on the ports subscribed to it; the record leaves and its blocks are freed in list order; the SEALED records directly above a release made here follow it (R112); and the overrun groups take a fresh stall deadline (R137, in AnAckMovesTheCursor). The ABSENT_FORCED entries and the reason FORCED go with the record. That a record which the eviction releases with an empty awaiting set retires only after the new record is filled is the model's reading (log 14), that a seal is latched in sealMade its choice (log 7). -/
def Obligations.ABoundaryOpensUpToTheEpochOfNow : Prop :=
  (∀ s : State,
    (s.ring.boundary = none ∨ (∃ d ∈ s.ring.boundary, now s < d) →
      exec .boundaryEvent s = .next s) ∧
    (∀ (r : Record) (d e : Nat), s.ring.boundary = some d → d ≤ now s → newest s = some r →
      s.ring.epochOf (now s) = some e →
      exec .boundaryEvent s = .next (finishSeals (openNext^[min e 4294967295 - r.epoch] s)) ∧
      (r.epoch < e → e ≤ 4294967295 →
        ∃ t, exec .boundaryEvent s = .next t ∧
          (∃ n ∈ newest t, n.epoch = e ∧ n.state = .opened ∧ n.ended = false) ∧
          t.ring.boundary = (if e < 4294967295 then
            some (min (s.ring.origin.getD 0 + (e + 1) * s.ring.lengthUs) (2 ^ 56 - 1)) else none) ∧
          t.stations = s.stations ∧ t.tb = s.tb))) ∧
  (∀ (s : State) (r : Record), newest s = some r →
    (4294967295 ≤ r.epoch → openNext s = s) ∧
    (r.epoch < 4294967295 →
      let u := if 48 ≤ s.ring.records.length then evictOldest s else s
      openNext s = retire { u with ring := { u.ring with
        records := u.ring.records ++ [freshRecord u (r.epoch + 1)]
        boundary := if r.epoch + 1 < 4294967295 then
          some (min (u.ring.origin.getD 0 + (r.epoch + 2) * u.ring.lengthUs) (2 ^ 56 - 1))
          else none } })) ∧
  (∀ (s : State) (r : Record) (rest : List Record), s.ring.records = r :: rest →
    (s.ring.records.map (·.epoch)).Nodup →
    let overrun : GroupSet := if r.state = .released then r.awaiting else activeSet s
    let gone : State := { s with
      ring := { s.ring with
        records := rest
        releaseCount := if r.state = .released then s.ring.releaseCount
          else s.ring.releaseCount + 1 }
      pool := r.blocks.foldl Pool.free s.pool
      groups := imap (fun h gr =>
        if overrun.getLsbD h.val then { gr with cursor := some (r.epoch + 1) } else gr) s.groups
      ports := imap (fun p ps => (PortState.raise · .groupOverrun)^[((List.finRange 4).filter
        fun h => overrun.getLsbD h.val && (rightsOf p s).subscriptions.getLsbD h.val).length] ps)
        s.ports
      sealMade := s.sealMade || decide (r.state = .opened) }
    let u := if r.state = .released then gone else releaseAll gone
    evictOldest s = { u with groups := imap (fun h gr =>
      if overrun.getLsbD h.val then { gr with stall := stallDeadline gr u } else gr) u.groups })

/-- RECORD_END_EVENT (R103) of an OPEN record whose end now has reached: the stations of a NO_WAIT zone are given up as ABSENT_TIMEOUT; each zone with a station WAITING takes its deadline from the zone table as the event finds it; no other entry, no other record's entries and no station change; then the seal condition is tested. What a test of the seal condition does (R109 to R111): every selected record that meets the four terms is SEALED at now, COMPLETE or TIMED, its pending deadlines abandoned, which the model writes as absent (log 31); one that a RETIMING station alone holds back is marked seal-deferred; and when any was sealed, releases and retirement follow. What the releases do (R112, R113): the run of SEALED records from base + release count upward is RELEASED at now, each with the ACTIVE groups as its awaiting set, EPOCH_RELEASED once for each record on every port subscribed to one of them, and the groups whose cursor is released take their stall deadline (R137). What retirement does (R136): the RELEASED records at the old end with an empty awaiting set leave, while a newer record stands above them, and their blocks join the tail of the free list in list order (R55; how the list is held is log 8). Before the end there is no event (log 2, 30). That a seal is latched in sealMade is the model's choice (log 7). -/
def Obligations.TheEndEventSetsTheZoneDeadlines : Prop :=
  (∀ (s : State) (n : BitVec 32) (r : Record), s.sealMade = false →
    (s.ring.records.map (·.epoch)).Nodup → r ∈ s.ring.records → r.epoch = n.toNat →
    (r.ended = true ∨ now s < s.ring.epochEnd n.toNat → exec (.recordEndEvent n) s = .next s) ∧
    (r.state = .opened → r.ended = false → s.ring.epochEnd n.toNat ≤ now s →
      exec (.recordEndEvent n) s = .next (finishSeals (sealTest
        (fun y => decide (y.epoch = n.toNat)) { s with ring := { s.ring with
          records := s.ring.records.map fun y =>
            if y.epoch = n.toNat then endedRecord s y else y } })) ∧
      ∃ t, exec (.recordEndEvent n) s = .next t ∧ t.stations = s.stations ∧ t.tb = s.tb ∧
        (∀ x ∈ s.ring.records, ∀ y ∈ t.ring.records, y.epoch = x.epoch → x.epoch ≠ n.toNat →
          y.entries = x.entries ∧ y.blocks = x.blocks) ∧
        (∀ y ∈ t.ring.records, y.epoch = n.toNat →
          y.ended = true ∧ y.blocks = r.blocks ∧
          (∀ k : Slot, y.entries[k] =
            if r.entries[k].status = .waiting ∧
                (zoneEntry (station k s).clk.zone s).mode = .noWait then
              { r.entries[k] with status := .absentTimeout } else r.entries[k]) ∧
          (y.state = .opened → ∀ z : ZoneId,
            let waits := ∃ k : Slot, r.entries[k].status = .waiting ∧ (station k s).clk.zone = z
            let stop := s.ring.epochEnd n.toNat
            let ze := zoneEntry z s
            ((¬waits ∨ ze.mode = .noWait) → y.zones[z] = r.zones[z]) ∧
            (waits → ze.mode = .fixed → y.zones[z] =
              { deadline := .pending (min (stop + ze.budget * 1000000) (2 ^ 56 - 1)),
                extension := 0 }) ∧
            (waits → ze.mode = .adaptive → y.zones[z] =
              { deadline := .pending (min (stop + min ze.budget ze.cap * 1000000) (2 ^ 56 - 1)),
                extension := 0 }) ∧
            (waits → ze.mode = .signalled → y.zones[z] =
              { deadline := .pending (min (stop + ze.cap * 1000000) (2 ^ 56 - 1)),
                extension := 0 }))))) ∧
  (∀ (s : State) (sel : Record → Bool),
    let tested : State := { s with ring := { s.ring with
      records := s.ring.records.map fun r => if sel r then sealTested s r else r } }
    ((∃ r ∈ s.ring.records, sel r = true ∧ SealTerms r ∧ ¬HeldByRetiming s r) →
      sealTest sel s = retire (releaseAll { tested with sealMade := true })) ∧
    ((∀ r ∈ s.ring.records, sel r = true → SealTerms r → HeldByRetiming s r) →
      sealTest sel s = tested)) ∧
  (∀ (s : State) (g : GroupId),
    (activeSet s).getLsbD g.val = true ↔ (group g s).state = .active) ∧
  (∀ s : State, releaseNext s = none → releaseAll s = s) ∧
  (∀ (s : State) (n m : Nat), releaseNext s = some n →
    (∀ e : Nat, n ≤ e → e < n + m → ∃ r ∈ findRecord e s, r.state = .sealed) →
    (∀ r ∈ findRecord (n + m) s, r.state ≠ .sealed) →
    let expiry (gr : Group) : Nat :=
      min (max (now s) (gr.lastAck.getD 0) + (tuning s).ackLimit * 1000000) (2 ^ 56 - 1)
    releaseAll s = { s with
      ring := { s.ring with
        releaseCount := s.ring.releaseCount + m
        records := s.ring.records.map fun r => if n ≤ r.epoch ∧ r.epoch < n + m then
          { r with state := .released, releaseTime := some (now s), awaiting := activeSet s }
          else r }
      ports := imap (fun p ps => if (rightsOf p s).subscriptions &&& activeSet s = 0 then ps
        else (PortState.raise · .epochReleased)^[m] ps) s.ports
      groups := imap (fun _ gr => match gr.cursor with
        | none => gr
        | some c => if n ≤ c ∧ c < n + m then
            { gr with stall := if gr.state = .active then some (expiry gr) else none }
            else gr) s.groups }) ∧
  (∀ (s : State) (gone kept : List Record), s.ring.records = gone ++ kept →
    (∀ r ∈ gone, r.state = .released ∧ r.awaiting = 0) → (kept = [] → gone = []) →
    (∀ r ∈ kept.head?, r.state = .released → r.awaiting = 0 → kept.length = 1) →
    retire s = { s with
      ring := { s.ring with records := kept }
      pool := (gone.flatMap (·.blocks)).foldl Pool.free s.pool }) ∧
  (∀ (p : Pool) (i : Nat),
    (p.get i = none → p.free i = p) ∧
    ((p.get i).isSome = true → p.free i = { p with
      used := p.used.filter fun e => decide (e.1 ≠ i), freed := p.freed ++ [i] }))

/-- What gives a WAITING station up in the OPEN records: ZONE_DEADLINE_EXPIRY once now has reached a pending deadline (R105), in one record and for one zone; and ELIGIBILITY_LOSS_NOTICE (R96), for one station in every OPEN record. Every other entry stays, and every block list; then the seal condition is tested (R109; TheEndEventSetsTheZoneDeadlines gives the test, the seals and the releases). Before its deadline there is no expiry (log 2, 30). That notices wait in State.notices, and that the oldest is taken, is the model's choice (log 5), and so is the seal latch (log 7). -/
def Obligations.ExpiriesAndNoticesGiveUpTheWaiting : Prop :=
  (∀ (s : State) (n : BitVec 32) (z : ZoneId) (r : Record) (d : Nat), s.sealMade = false →
    (s.ring.records.map (·.epoch)).Nodup → r ∈ s.ring.records → r.epoch = n.toNat →
    r.state = .opened → r.zones[z].deadline = .pending d →
    (now s < d → exec (.zoneDeadlineExpiry n z) s = .next s) ∧
    (d ≤ now s →
      exec (.zoneDeadlineExpiry n z) s = .next (finishSeals (sealTest
        (fun y => decide (y.epoch = n.toNat)) { s with ring := { s.ring with
          records := s.ring.records.map fun y => if y.epoch = n.toNat then
            { zoneGivenUp z .absentTimeout s y with
              zones := put y.zones z { y.zones[z] with deadline := .expired d } }
            else y } })) ∧
      ∃ t, exec (.zoneDeadlineExpiry n z) s = .next t ∧
      t.stations = s.stations ∧ t.tb = s.tb ∧
      (∀ x ∈ s.ring.records, ∀ y ∈ t.ring.records, y.epoch = x.epoch →
        y.blocks = x.blocks ∧ y.late = x.late ∧
        (x.epoch ≠ n.toNat → y.entries = x.entries) ∧
        (x.epoch = n.toNat → y.zones[z].deadline = .expired d ∧
          ∀ k : Slot, y.entries[k] =
            if x.entries[k].status = .waiting ∧ (station k s).clk.zone = z then
              { x.entries[k] with status := .absentTimeout } else x.entries[k])))) ∧
  (∀ (s : State) (m : Notice) (rest : List Notice), s.sealMade = false →
    (s.ring.records.map (·.epoch)).Nodup → s.notices = m :: rest →
    exec .eligibilityLossNotice s = .next (finishSeals (sealTest
      (fun y => decide (y ∉ s.ring.records)) { s with
        notices := rest
        ring := { s.ring with records := s.ring.records.map fun y =>
          if y.state = .opened ∧ y.entries[m.slot].status = .waiting then
            { y with entries := put y.entries m.slot { y.entries[m.slot] with status := m.status } }
          else y } })) ∧
    ∃ t, exec .eligibilityLossNotice s = .next t ∧ t.notices = rest ∧
      t.stations = s.stations ∧ t.tb = s.tb ∧
      (∀ x ∈ s.ring.records, ∀ y ∈ t.ring.records, y.epoch = x.epoch →
        y.blocks = x.blocks ∧ y.late = x.late ∧
        ∀ k : Slot, y.entries[k] =
          if x.state = .opened ∧ k = m.slot ∧ x.entries[k].status = .waiting then
            { x.entries[k] with status := m.status } else x.entries[k]))

/-- ZONE_FLUSHED_GRANT (R107): the refusals in order; otherwise, in every OPEN record that ends by t, every station WAITING there whose zone is the flushed one becomes ABSENT_FLUSHED, the reply counts the records and the entries, and the seal condition is tested in the records that changed (R109; TheEndEventSetsTheZoneDeadlines gives the test, the seals and the releases; the seal latch is log 7). -/
def Obligations.AFlushGivesUpTheZoneUpToItsTime : Prop :=
  ∀ (s : State) (p : PortId) (tag b : Byte) (u : BitVec 56) (rest : List Queued),
    Wins p { tag := tag, req := .zoneFlushed b u } rest s → s.sealMade = false →
    (s.ring.records.map (·.epoch)).Nodup →
    let g := grantsHead p none s
    let no (c : Code) (d : List Field) : Host.Outcome State Fault Refusal :=
      .next (tryQuiesceGrant (granted p tag 3 c d g))
    (zoneOf b = none → exec .zoneFlushedGrant s = no .badRequest [.num 1 0]) ∧
    (∀ z : ZoneId, zoneOf b = some z →
      (s.ring.state = .stopped → exec .zoneFlushedGrant s = no .ringStopped []) ∧
      (s.ring.state = .active → (zoneEntry z s).mode ≠ .signalled →
        exec .zoneFlushedGrant s = no .wrongState []) ∧
      (s.ring.state = .active → (zoneEntry z s).mode = .signalled →
        let reached := s.ring.records.filter fun r =>
          decide (r.state = .opened ∧ s.ring.epochEnd r.epoch ≤ u.toNat)
        let waits (r : Record) : List Slot := (List.finRange 64).filter fun k =>
          decide (r.entries[k].status = .waiting ∧ (station k s).clk.zone = z)
        let fields : List Field :=
          [.num 1 reached.length, .num 2 (reached.map fun r => (waits r).length).sum]
        exec .zoneFlushedGrant s = .next (tryQuiesceGrant (finishSeals (granted p tag 3 .done fields
          (sealTest (fun y => decide (y ∉ s.ring.records)) { g with ring := { s.ring with
            records := s.ring.records.map fun y =>
              if y.state = .opened ∧ s.ring.epochEnd y.epoch ≤ u.toNat then
                zoneGivenUp z .absentFlushed s y else y } })))) ∧
        ∃ t, exec .zoneFlushedGrant s = .next t ∧
          (port p t).out = (port p s).out ++ [.reply tag 3 .done fields] ∧
          t.stations = s.stations ∧ t.tb = s.tb ∧
          (∀ x ∈ s.ring.records, ∀ y ∈ t.ring.records, y.epoch = x.epoch →
            y.blocks = x.blocks ∧ y.late = x.late ∧
            ∀ k : Slot, y.entries[k] =
              if x ∈ reached ∧ k ∈ waits x then
                { x.entries[k] with status := .absentFlushed } else x.entries[k])))

/-! ## Re-timing -/

/-- A re-time starts on the head of the queue when none runs (R117; RETIME_START as a command of its own is log 4, without a waiting re-time it is no event, log 2): the target is the station's generation, the counts are 0 but for the blocks left in SEALED and RELEASED records, and the snapshot lists the blocks of the station that are filed in OPEN records under another generation, in ring order and block-list order. A re-time notice (R116, R123): the running station's pass starts again, a queued one keeps its place, one with blocks in OPEN records of an ACTIVE ring joins the queue, RETIMING, and starts when none runs, and any other stays. RETIME_STEP (R118 to R121): without a model the re-time is cut short; an entry whose pool record is free or holds another block or the target generation is skipped; one filed in a SEALED or RELEASED record is left; any other is re-placed by the epoch of its new network start: updated, moved, carried or misplaced, opening epochs on demand, and skipped when such an opening evicts its record. The block takes the new times, the target generation, its place and flags, and each OPEN record is as `replacedRecord` says: counts, gap marks, lists and late counts (R120; the late count of the record it leaves is log 22; the limit of the future tolerance and the start of an epoch are held in range, log 9). -/
def Obligations.ARetimeStartsAndStepsThroughItsSnapshot : Prop :=
  (∀ (s : State) (k : Slot),
    let older (opened : Bool) : List (Nat × SeqNo) :=
      (s.ring.records.filter fun r => decide (r.state = .opened) == opened).flatMap fun r =>
        r.blocks.filterMap fun i => match block i s with
          | some b => if b.slot = k ∧ b.generation ≠ (station k s).clk.generation then
              some (i, b.seq) else none
          | none => none
    let pass (restarts : Nat) : Running :=
      { slot := k, target := (station k s).clk.generation, snapshot := older true
        counts := { moved := 0, updated := 0, carried := 0, misplaced := 0, skipped := 0,
                    leftInSealed := (older false).length }
        restarts := restarts }
    let filed : Prop := s.ring.state = .active ∧ ∃ r ∈ s.ring.records, r.state = .opened ∧
      ∃ i ∈ r.blocks, ∃ b ∈ block i s, b.slot = k
    let joined : State := { s with
      stations := put s.stations k { station k s with retiming := true }
      retime := { s.retime with queue := s.retime.queue ++ [k] } }
    (s.retime.running.isSome = true ∨ s.retime.queue = [] → exec .retimeStart s = .next s) ∧
    (∀ rest : List Slot, s.retime.running = none → s.retime.queue = k :: rest →
      exec .retimeStart s = .next
        { s with retime := { queue := rest, running := some (pass 0) } }) ∧
    (∀ run : Running, s.retime.running = some run → run.slot = k → retimeNotice k s =
      { s with retime := { s.retime with running := some (pass (min (run.restarts + 1) 255)) } }) ∧
    ((∀ run ∈ s.retime.running, run.slot ≠ k) →
      (k ∈ s.retime.queue ∨ ¬filed → retimeNotice k s = s) ∧
      (k ∉ s.retime.queue → filed →
        (s.retime.running.isSome = true → retimeNotice k s = joined) ∧
        (s.retime.running = none → exec .retimeStart joined = .next (retimeNotice k s))))) ∧
  (∀ (s : State) (run : Running) (i : Nat) (q : SeqNo) (rest : List (Nat × SeqNo)),
    s.retime.running = some run → run.snapshot = (i, q) :: rest → s.sealMade = false →
    let left (c : RetimeCounts) (l : List (Nat × SeqNo)) : State :=
      { s with retime := { s.retime with running := some { run with counts := c, snapshot := l } } }
    let c := run.counts
    ((station run.slot s).clk.anchor = none → exec .retimeStep s = .next
      (left { c with skipped := c.skipped + 1 + rest.length } [])) ∧
    ((station run.slot s).clk.anchor.isSome = true →
      (block i s = none → exec .retimeStep s = .next
        (left { c with skipped := c.skipped + 1 } rest)) ∧
      (∀ b : Block, block i s = some b →
        (b.slot ≠ run.slot ∨ b.seq ≠ q ∨ b.generation = run.target → exec .retimeStep s = .next
          (left { c with skipped := c.skipped + 1 } rest)) ∧
        (b.slot = run.slot → b.seq = q → b.generation ≠ run.target →
          ∀ (e : Nat) (r : Record), b.place = .filed e → findRecord e s = some r →
            (r.state ≠ .opened → exec .retimeStep s = .next
              (left { c with leftInSealed := c.leftInSealed + 1 } rest)) ∧
            (r.state = .opened →
              let netStart := (station run.slot s).clk.convert b.start
              let b1 : Block := { b with
                netStart := some netStart
                netEnd := some (min (netStart + duration b.samples b.rate) (2 ^ 56 - 1))
                generation := run.target
                flags := { b.flags with retimed := true } }
              let counts (kind : Replaced) : RetimeCounts := match kind with
                | .updated => { c with updated := c.updated + 1 }
                | .moved => { c with moved := c.moved + 1 }
                | .carried => { c with carried := c.carried + 1 }
                | .misplaced => { c with misplaced := c.misplaced + 1 }
                | .skipped => { c with skipped := c.skipped + 1 }
              (∀ (u : State) (n : Nat) (kind : Replaced),
                chooseReplacement e netStart (left c rest) = (u, n, kind) →
                let stepped (v : State) : State := { v with
                  retime := { v.retime with
                    running := v.retime.running.map fun x => { x with counts := counts kind } } }
                let b2 : Block := { b1 with
                  place := .filed n
                  flags := { b1.flags with
                    late := b.flags.late || decide (kind = .carried)
                    misplaced := b.flags.misplaced || decide (kind = .misplaced) } }
                (kind = .skipped → exec .retimeStep s = .next (finishSeals (stepped u))) ∧
                (kind ≠ .skipped → exec .retimeStep s = .next (finishSeals (stepped { u with
                  pool := u.pool.upd i (fun _ => b2)
                  ring := { u.ring with
                    records := u.ring.records.map fun x =>
                      replacedRecord u i e n (decide (kind = .carried)) b b2 x } })))) ∧
              (s.ring.epochOf netStart = some e → newest s ≠ none →
                ∃ t, exec .retimeStep s = .next t ∧
                  t.retime = (left (counts .updated) rest).retime ∧
                  t.stations = s.stations ∧ t.tb = s.tb ∧ block i t = some b1 ∧
                  (∀ j, j ≠ i → block j t = block j s) ∧
                  t.ring.records.map (fun r => (r.epoch, r.blocks, r.state)) =
                    s.ring.records.map (fun r => (r.epoch, r.blocks, r.state)))))))) ∧
  (∀ (s : State) (own t : Nat) (r : Record), newest s = some r →
    let oldest_ : Nat :=
      ((s.ring.records.find? fun x => decide (x.state = .opened)).map (·.epoch)).getD own
    let start (e : Nat) : Nat :=
      min (s.ring.origin.getD 0 + e * s.ring.lengthUs) (2 ^ 56 - 1)
    (s.ring.epochOf t = none → chooseReplacement own t s = (s, oldest_, .carried)) ∧
    (∀ e : Nat, s.ring.epochOf t = some e →
      (e = own → chooseReplacement own t s = (s, own, .updated)) ∧
      (e ≠ own → e ≤ r.epoch →
        (∀ x : Record, findRecord e s = some x → x.state = .opened →
          chooseReplacement own t s = (s, e, .moved)) ∧
        ((∀ x ∈ findRecord e s, x.state ≠ .opened) →
          chooseReplacement own t s = (s, oldest_, .carried))) ∧
      (e ≠ own → r.epoch < e →
        (e ≤ 4294967295 → start e ≤ latestAllowed s →
          chooseReplacement own t s =
            if (findRecord own (openNext^[e - r.epoch] s)).isSome then
              (openNext^[e - r.epoch] s, e, .moved)
            else (openNext^[e - r.epoch] s, own, .skipped)) ∧
        (4294967295 < e ∨ latestAllowed s < start e →
          chooseReplacement own t s = (s, own, .misplaced)))))

/-- RETIME_FINAL_STEP (R122) with an empty snapshot, in its six steps: the coverage is reckoned afresh from the last station end under the present model; the station's status is recomputed in every OPEN record where it is WAITING or passed, by the coverage, by its zone's deadline as R104 judges it, and by what takes its eligibility away (`recoveredRecord`); RETIMING is clear; the seal condition is tested in the records that changed and in the seal-deferred ones (R111), a committed set taken at a seal (R114); the report is written with now, with RETIME_DONE on the supervisor port; and the next re-time of the queue starts. Then a quiesce that waited is granted (R147). An entry whose station the new coverage reaches is passed in every record that is still OPEN. With entries left there is no final step (log 2). -/
def Obligations.TheFinalStepReckonsTheCoverageAfresh : Prop :=
  ∀ (s : State) (run : Running), s.retime.running = some run → s.sealMade = false →
    (run.snapshot ≠ [] → exec .retimeFinalStep s = .next s) ∧
    (run.snapshot = [] →
      let k := run.slot
      let half : SeqHalf := { (station k s).sq with
        deliveredUntil := match (station k s).sq.lastEnd, (station k s).clk.anchor with
          | some e, some _ => some ((station k s).clk.convert e)
          | _, _ => (station k s).sq.deliveredUntil }
      let reckoned : State := { s with
        stations := put s.stations k { station k s with sq := half } }
      let w : State := finishSeals (sealTest
        (fun r => decide (r ∉ s.ring.records) || r.deferred) { s with
          stations := put s.stations k { station k s with sq := half, retiming := false }
          ring := { s.ring with
            records := s.ring.records.map (recoveredRecord reckoned k) } })
      let report : RetimeReport :=
        { target := run.target, counts := run.counts, restarts := run.restarts, time := now s }
      (∃ t, exec .retimeStart { w with
          stations := put w.stations k { station k w with lastReport := some report }
          ports := imap (fun p ps => if isSup p w then ps.raise .retimeDone else ps) w.ports
          retime := { w.retime with running := none } } = .next t ∧
        exec .retimeFinalStep s = .next (tryQuiesceGrant t)) ∧
      ∃ t, exec .retimeFinalStep s = .next t ∧
        (station k t).retiming = false ∧ (station k t).clk = (station k s).clk ∧
        (station k t).lastReport = some report ∧ (station k t).sq = half ∧
        (∀ j : Slot, j ≠ k → station j t = station j s) ∧
        t.retime.queue = s.retime.queue.tail ∧
        t.retime.running.map (·.slot) = s.retime.queue.head? ∧
        (∀ x ∈ t.ring.records, x.state = .opened →
          x.entries[k].status = .waiting ∨ x.entries[k].status.isPassed = true →
          (x.entries[k].status.isPassed = true ↔ covers k x.epoch t = true)) ∧
        t.tb = s.tb)

/-! ## Delivery groups -/

/-- The two refusals of R128 at the grant of each of the five group requests, and NOT_ATTACHED of the four that need an ACTIVE group, with the fields that a reply after the two tests carries. No state changes but what the grant itself does. -/
def Obligations.GroupRequestsAreRefusedInOrder : Prop :=
  ∀ (s : State) (p : PortId) (tag b : Byte) (n : BitVec 32) (page : BitVec 16) (rest : List Queued)
    (i : Instr) (req : ServiceReq),
    (i, req) ∈ [(Instr.attachGrant, ServiceReq.attach b), (.detachGrant, .detach b),
      (.fetchEpochGrant, .fetchEpoch b), (.fetchPageGrant, .fetchPage b n page),
      (.ackEpochGrant, .ackEpoch b n)] →
    Wins p { tag := tag, req := req } rest s →
    let g := grantsHead p none s
    let no (c : Code) (d : List Field) : Host.Outcome State Fault Refusal :=
      .next (granted p tag (reqKind req) c d g)
    (groupOf b = none → exec i s = no .badRequest [.num 1 0]) ∧
    (∀ h : GroupId, groupOf b = some h →
      ((rightsOf p s).subscriptions.getLsbD h.val = false → exec i s = no .notSubscribed []) ∧
      ((rightsOf p s).subscriptions.getLsbD h.val = true → i ≠ .attachGrant →
        (group h s).state ≠ .active → exec i s = no .notAttached
          [.num 1 (group h s).state.num, .optNum 4 (group h s).cursor,
           .optNum 7 (group h s).lastAck, .optNum 4 (releaseNext s)]))

/-- ATTACH (R130): RING_STOPPED, ALREADY, or the group ACTIVE at the oldest RELEASED record, or at base + release count when there is none, last-ack now, the group in the awaiting set of every RELEASED record and of no other, and its stall deadline by R137, absent when the ring holds no RELEASED record. The reply gives the cursor once, among the group fields, and then the number of RELEASED records alone: the layout is the model's choice (log 12). -/
def Obligations.AttachJoinsTheReleasedRecords : Prop :=
  ∀ (s : State) (p : PortId) (tag b : Byte) (rest : List Queued) (h : GroupId),
    Wins p { tag := tag, req := .attach b } rest s → groupOf b = some h →
    (rightsOf p s).subscriptions.getLsbD h.val = true →
    let g := grantsHead p none s
    let fields (u : State) : List Field :=
      [.num 1 (group h u).state.num, .optNum 4 (group h u).cursor, .optNum 7 (group h u).lastAck,
       .optNum 4 (releaseNext u)]
    (s.ring.state = .stopped →
      exec .attachGrant s = .next (granted p tag 4 .ringStopped (fields s) g)) ∧
    (s.ring.state = .active → (group h s).state = .active →
      exec .attachGrant s = .next (granted p tag 4 .already (fields s) g)) ∧
    (s.ring.state = .active → (group h s).state ≠ .active →
      let done := s.ring.records.filter fun r => decide (r.state = .released)
      let cursor := match done.head? with
        | some r => some r.epoch
        | none => releaseNext s
      ∃ t, exec .attachGrant s = .next t ∧
        (port p t).out = (port p s).out ++
          [.reply tag 4 .done (fields t ++ [.num 1 done.length])] ∧
        (group h t).state = .active ∧ (group h t).cursor = cursor ∧
        (group h t).lastAck = some (now s) ∧
        ((s.ring.records.map (·.epoch)).Nodup → ∀ r ∈ done.head?, (group h t).stall =
          some (min (max (r.releaseTime.getD 0) (now s) + (tuning s).ackLimit * 1000000)
            (2 ^ 56 - 1))) ∧
        (done = [] → (group h t).stall = none) ∧
        (∀ x : GroupId, x ≠ h → group x t = group x s) ∧
        t.ring = { s.ring with records := s.ring.records.map fun r =>
          if r.state = .released then { r with awaiting := r.awaiting ||| (1#4 <<< h.val) }
          else r } ∧
        t.stations = s.stations ∧ t.pool = s.pool ∧ t.tb = s.tb)

/-- What takes a group away: DETACH of an ACTIVE group (R131), and a stall once now has reached its deadline (R137), which keeps cursor and last-ack and raises GROUP_STALLED on the subscribed ports and the supervisor port. Either way the group is in no awaiting set afterwards, and the other groups stay. Before its deadline there is no stall (log 2, 30). -/
def Obligations.DetachAndStallLeaveEveryAwaitingSet : Prop :=
  (∀ (s : State) (p : PortId) (tag b : Byte) (rest : List Queued) (h : GroupId),
    Wins p { tag := tag, req := .detach b } rest s → groupOf b = some h →
    (rightsOf p s).subscriptions.getLsbD h.val = true → (group h s).state = .active →
    ∃ t, exec .detachGrant s = .next t ∧
      (port p t).out = (port p s).out ++ [.reply tag 5 .done
        [.num 1 0, .optNum 4 none, .optNum 7 none, .optNum 4 (releaseNext s),
         .num 1 (s.ring.records.filter fun r => r.awaiting.getLsbD h.val).length]] ∧
      group h t = { state := .detached, cursor := none, lastAck := none, stall := none } ∧
      (∀ x : GroupId, x ≠ h → group x t = group x s) ∧
      (∀ r ∈ t.ring.records, r.awaiting.getLsbD h.val = false) ∧ t.tb = s.tb) ∧
  (∀ (s : State) (h : GroupId),
    ((group h s).state ≠ .active ∨ (group h s).stall = none ∨ (∃ d ∈ (group h s).stall, now s < d) →
      exec (.groupStall h) s = .next s) ∧
    (∀ d : Nat, (group h s).state = .active → (group h s).stall = some d → d ≤ now s →
      ∃ t, exec (.groupStall h) s = .next t ∧
        group h t = { group h s with state := .stalled, stall := none } ∧
        (∀ x : GroupId, x ≠ h → group x t = group x s) ∧
        (∀ r ∈ t.ring.records, r.awaiting.getLsbD h.val = false) ∧
        (∀ q : PortId, port q t =
          if (rightsOf q s).subscriptions.getLsbD h.val = true ∨ isSup q s = true then
            (port q s).raise .groupStalled else port q s) ∧
        t.stations = s.stations ∧ t.tb = s.tb))

/-- FETCH_EPOCH and FETCH_PAGE of an ACTIVE group (R132 to R134): the summary of the RELEASED record at the cursor, with every item of R133 in its order, or NONE_READY with the record's state code; three entries of the block list of a RELEASED record that awaits the group, or WRONG_STATE. Neither changes a state. An absent time of a RELEASED record or a filed block, which no run meets, reads as 0 (log 21). -/
def Obligations.FetchesReadReleasedRecords : Prop :=
  ∀ (s : State) (p : PortId) (tag b : Byte) (rest : List Queued) (h : GroupId), groupOf b = some h →
    (rightsOf p s).subscriptions.getLsbD h.val = true → (group h s).state = .active →
    let g := grantsHead p none s
    let fields : List Field :=
      [.num 1 1, .optNum 4 (group h s).cursor, .optNum 7 (group h s).lastAck,
       .optNum 4 (releaseNext s)]
    let summary (r : Record) : List Field :=
      [.num 4 r.epoch, .num 7 r.start,
       .num 1 (match r.reason with
         | none => 0
         | some .complete => 1
         | some .timed => 2
         | some .forced => 3),
       .bit r.deferred, .num 7 (r.sealTime.getD 0), .num 7 (r.releaseTime.getD 0),
       .nibbles (r.entries.toList.map fun e => e.status.num),
       .marks (r.entries.toList.map fun e => e.gap)] ++
      r.entries.toList.map (fun e => .num 1 e.count) ++
      (List.range 10).map (fun n => .num 1 (r.entries.toList.countP fun e => e.status.num == n)) ++
      [.num 2 r.blocks.length, .num 2 r.late, .num 2 ((r.blocks.length + 2) / 3),
       .num 1 r.awaiting.toNat]
    (Wins p { tag := tag, req := .fetchEpoch b } rest s →
      ∀ c : Nat, (group h s).cursor = some c →
        (findRecord c s = none → exec .fetchEpochGrant s =
          .next (granted p tag 6 .noneReady (fields ++ [.num 1 0]) g)) ∧
        (∀ r : Record, findRecord c s = some r →
          (r.state ≠ .released → exec .fetchEpochGrant s =
            .next (granted p tag 6 .noneReady (fields ++ [.num 1 r.state.num]) g)) ∧
          (r.state = .released → exec .fetchEpochGrant s =
            .next (granted p tag 6 .done (fields ++ summary r) g)))) ∧
    (∀ (n : BitVec 32) (page : BitVec 16),
      Wins p { tag := tag, req := .fetchPage b n page } rest s →
      (findRecord n.toNat s = none → exec .fetchPageGrant s =
        .next (granted p tag 7 .wrongState fields g)) ∧
      (∀ r : Record, findRecord n.toNat s = some r →
        (r.state ≠ .released ∨ r.awaiting.getLsbD h.val = false → exec .fetchPageGrant s =
          .next (granted p tag 7 .wrongState fields g)) ∧
        (r.state = .released → r.awaiting.getLsbD h.val = true →
          (∀ i ∈ r.blocks, (block i s).isSome = true) →
          let entries := ((r.blocks.drop (3 * page.toNat)).take 3).filterMap (block · s)
          entries.length = min 3 (r.blocks.length - 3 * page.toNat) ∧
          exec .fetchPageGrant s = .next (granted p tag 7 .done
            (fields ++ [.num 2 r.blocks.length, .num 1 entries.length] ++
              entries.flatMap fun e =>
                [.num 1 e.slot.val, .num 2 e.seq.toNat, .num 7 e.start, .num 2 e.samples,
                 .num 1 e.rate, .num 1 e.channels, .num 4 e.handle.toNat,
                 .num 7 (e.netStart.getD 0), .num 7 (e.netEnd.getD 0), .num 2 e.generation.toNat,
                 .flags [e.flags.gap, e.flags.timeGap, e.flags.overlap, e.flags.late,
                   e.flags.lateFill, e.flags.misplaced, e.flags.retimed]]) g))))

/-- ACK_EPOCH of an ACTIVE group (R135): OUT_OF_ORDER unless it names the cursor, NONE_READY while that record is not RELEASED, and otherwise the group leaves the record, its cursor moves one on, last-ack becomes now, and its stall deadline is set afresh (R137): now, or the release time of the record at the new cursor where that is later, plus the ack limit, and none while that record is not RELEASED. Last, the stall deadline of any group (R137). OUT_OF_ORDER and DONE give the cursor only within the group fields, which every reply carries (log 12). -/
def Obligations.AnAckMovesTheCursor : Prop :=
  (∀ (s : State) (p : PortId) (tag b : Byte) (n : BitVec 32) (rest : List Queued) (h : GroupId),
    Wins p { tag := tag, req := .ackEpoch b n } rest s → groupOf b = some h →
    (rightsOf p s).subscriptions.getLsbD h.val = true → (group h s).state = .active →
    let g := grantsHead p none s
    let fields (u : State) : List Field :=
      [.num 1 1, .optNum 4 (group h u).cursor, .optNum 7 (group h u).lastAck,
       .optNum 4 (releaseNext u)]
    ((group h s).cursor ≠ some n.toNat →
      exec .ackEpochGrant s = .next (granted p tag 8 .outOfOrder (fields s) g)) ∧
    ((group h s).cursor = some n.toNat →
      (findRecord n.toNat s = none ∨ (∃ r ∈ findRecord n.toNat s, r.state ≠ .released) →
        exec .ackEpochGrant s = .next (granted p tag 8 .noneReady (fields s) g)) ∧
      (∀ r : Record, findRecord n.toNat s = some r → r.state = .released →
        ∃ t, exec .ackEpochGrant s = .next t ∧
          (port p t).out = (port p s).out ++ [.reply tag 8 .done
            (fields t ++ [.num 1 (s.ring.records.length - t.ring.records.length)])] ∧
          group h t =
            { state := .active, cursor := some (n.toNat + 1), lastAck := some (now s)
              stall := match findRecord (n.toNat + 1) s with
                | none => none
                | some y => if y.state = .released then
                    some (min (max (y.releaseTime.getD 0) (now s) + (tuning s).ackLimit * 1000000)
                      (2 ^ 56 - 1))
                  else none } ∧
          (∀ x : GroupId, x ≠ h → group x t = group x s) ∧
          (∀ x ∈ s.ring.records, ∀ y ∈ t.ring.records, y.epoch = x.epoch →
            (s.ring.records.map (·.epoch)).Nodup →
            y = if x.epoch = n.toNat then
              { x with awaiting := x.awaiting &&& ~~~(1#4 <<< h.val) } else x) ∧
          t.ring.records <:+ s.ring.records.map (fun x => if x.epoch = n.toNat then
              { x with awaiting := x.awaiting &&& ~~~(1#4 <<< h.val) } else x) ∧
          t.stations = s.stations ∧ t.tb = s.tb))) ∧
  (∀ (s : State) (gr : Group),
    (gr.state ≠ .active ∨ gr.cursor = none → stallDeadline gr s = none) ∧
    (∀ c : Nat, gr.state = .active → gr.cursor = some c →
      ((∀ r ∈ findRecord c s, r.state ≠ .released) → stallDeadline gr s = none) ∧
      (∀ r : Record, findRecord c s = some r → r.state = .released → stallDeadline gr s =
        some (min (max (r.releaseTime.getD 0) (gr.lastAck.getD 0) + (tuning s).ackLimit * 1000000)
          (2 ^ 56 - 1)))))

/-! ## Network reset and network shape -/

/-- NETWORK_RESET_GRANT (R157, Table 9-2): refused NOT_SUPERVISOR, then WRONG_STATE outside RUNNING; otherwise every non-VACANT station ACQUIRING with its configuration and depth kept, the pool and the ring empty, re-timing abandoned, every group DETACHED, the other ports' requests answered ABORTED, the urgent slot first (R169), NETWORK_RESET_DONE on all ports, and a committed tuning set that waited taken (R114; TuningIsStagedDroppedAndCommitted gives the taking). Time, supervision, the sweep and the silence clock stay. That the waiting eligibility-loss notices are cleared is the model's choice (log 5); how the empty pool is held is log 8. -/
def Obligations.ANetworkResetClearsByOwner : Prop :=
  ∀ (s : State) (p : PortId) (tag : Byte) (rest : List Queued),
    Wins p { tag := tag, req := .networkReset } rest s →
    let g := grantsHead p none s
    let reset : State := raiseAll .networkResetDone { g with
      stations := imap (fun _ st =>
        if st.clk.state = .vacant then { st with retiming := false, lastReport := none }
        else
          { clk := { ClockHalf.vacant with
              code := st.clk.code, zone := st.clk.zone, action := st.clk.action,
              state := .acquiring, lastAged := now s }
            sq := { SeqHalf.vacant with
              depth := st.sq.depth, lastArrival := now s, silenceMark := s.silenceClock }
            retiming := false
            lastReport := none }) s.stations
      pool := { used := [], fresh := 0, freed := [] }
      ring := { state := .stopped, origin := none, length := none, base := none,
                releaseCount := 0, boundary := none, records := [] }
      retime := { queue := [], running := none }
      groups := imap (fun _ _ =>
        { state := .detached, cursor := none, lastAck := none, stall := none }) s.groups
      ports := imap (fun q ps => if q = p then ps else
        { ps with
          out := ps.out ++
            ps.urgent.toList.map (fun u => .reply u.tag 10 .aborted []) ++
            ps.queue.map (fun r => .reply r.tag (reqKind r.req) .aborted [])
          reservations := ps.reservations - (ps.urgent.toList.length + ps.queue.length)
          inFlight := ps.inFlight - (ps.urgent.toList.length + ps.queue.length)
          queue := [], urgent := none, age := 0, guards := 0, overdue := false }) g.ports
      notices := [] }
    (isSup p s = false →
      exec .networkResetGrant s = .next (granted p tag 12 .notSupervisor [] g)) ∧
    (isSup p s = true → s.sup.quiesce ≠ .running →
      exec .networkResetGrant s = .next (granted p tag 12 .wrongState [] g)) ∧
    (isSup p s = true → s.sup.quiesce = .running →
      exec .networkResetGrant s = .next (granted p tag 12 .done [] (takeTuning reset)) ∧
      (s.sup.committed = none →
        exec .networkResetGrant s = .next (granted p tag 12 .done [] reset)))

/-- QUIESCE_END_APPLY_GRANT (R150): NOT_SUPERVISOR, WRONG_STATE outside QUIESCED, SHAPE_INVALID naming the first invalid item, counted from 1, which empties the set and keeps the quiesce (the reason's code is a free value, log 13); otherwise the items are applied in staging order (ShapeItemsDoWhatTheirOwnersState says what each does), the seal condition is tested in the records that changed (R151), the quiesce ends with its staged set, and a committed tuning set is taken at a seal (R114, log 7). An empty set is valid and changes nothing else. Then the validation written out: it begins with the station code of every slot that is not VACANT, judges each item in staging order against the table as the items before it leave it (`checkItem`, which ShapeItemsDoWhatTheirOwnersState gives), and names the first that is invalid by its place in the set. -/
def Obligations.AnApplyIsValidatedThenEndsTheQuiesce : Prop :=
  (∀ (s : State) (p : PortId) (tag : Byte) (rest : List Queued),
    Wins p { tag := tag, req := .quiesceEndApply } rest s → s.sealMade = false →
    let g := grantsHead p none s
    (isSup p s = false →
      exec .quiesceEndApplyGrant s = .next (granted p tag 13 .notSupervisor [] g)) ∧
    (isSup p s = true → s.sup.quiesce.isQuiesced = false →
      exec .quiesceEndApplyGrant s = .next (granted p tag 13 .wrongState [] g)) ∧
    (∀ d : Nat, isSup p s = true → s.sup.quiesce = .quiesced d →
      (∀ (n : Nat) (e : Config.ShapeReason),
        firstInvalid 1 (occupancy s) s.sup.staged = some (n, e) →
        exec .quiesceEndApplyGrant s = .next (granted p tag 13 .shapeInvalid
          [.num 1 n, .num 1 (Config.shapeReason e).toNat]
          { g with sup := { s.sup with staged := [] } })) ∧
      (firstInvalid 1 (occupancy s) s.sup.staged = none →
        let u : State := sealTest (fun r => decide (r ∉ s.ring.records))
          (s.sup.staged.foldl applyItem g)
        exec .quiesceEndApplyGrant s = .next (finishSeals (granted p tag 13 .done
          [.num 1 s.sup.staged.length]
          { u with sup := { u.sup with quiesce := .running, staged := [] } })) ∧
        ∃ t, exec .quiesceEndApplyGrant s = .next t ∧
          (port p t).out = (port p s).out ++
            [.reply tag 13 .done [.num 1 s.sup.staged.length]] ∧
          t.sup.quiesce = .running ∧ t.sup.staged = [] ∧ t.tb = s.tb ∧
          t.silenceClock = s.silenceClock) ∧
      (s.sup.staged = [] → exec .quiesceEndApplyGrant s = .next (granted p tag 13 .done [.num 1 0]
        { g with sup := { s.sup with quiesce := .running, staged := [] } })))) ∧
  (∀ (s : State) (k : Slot), (occupancy s)[k] =
    if (station k s).clk.state = .vacant then none else some (station k s).clk.code) ∧
  (∀ (o : Occupancy) (l : List ShapeItem) (n : Nat) (e : Config.ShapeReason),
    firstInvalid 1 o l = some (n, e) ↔
      ∃ (before after : List ShapeItem) (item : ShapeItem) (left : Occupancy),
        l = before ++ item :: after ∧ n = before.length + 1 ∧
        before.foldlM checkItem o = .ok left ∧ checkItem left item = .error e) ∧
  (∀ (o : Occupancy) (l : List ShapeItem),
    firstInvalid 1 o l = none ↔ ∃ left : Occupancy, l.foldlM checkItem o = .ok left)

/-- What the items of an applied set do, each to the whole state (R33 to R35, R76, R77, R75, R102, R115, R151, R152), and which are invalid (R150). ADD_STATION writes its station; REMOVE_STATION frees the held blocks in order and marks a LOCKED or TRACKING station ABSENT_REMOVED where it is WAITING; SET_STATION takes zone and action, then judges the entries of a changed zone by `movedRecord`, then the depth (log 15): a list that fits stays, a frozen one loses its highest blocks, counted as discarded, and any other gives up holes until it fits; SET_ZONE replaces the entry and rezones every record by `rezonedRecord` (log 16). That an ADD_STATION whose slot and code are both in use is invalid for its slot is the model's choice (log 20). -/
def Obligations.ShapeItemsDoWhatTheirOwnersState : Prop :=
  ∀ (s : State) (k : Slot) (code depth : Nat) (z : ZoneId) (a : FaultAction) (e : ZoneEntry),
    let st := station k s
    (applyItem s (.addStation k code z depth a) = { s with stations := put s.stations k { st with
      clk := { ClockHalf.vacant with code := code, zone := z, action := a, state := .acquiring,
                                     lastAged := now s }
      sq := { SeqHalf.vacant with depth := depth, lastArrival := now s,
                                  silenceMark := s.silenceClock }
      lastReport := none } }) ∧
    (applyItem s (.removeStation k) = { s with
      stations := put s.stations k { st with
        clk := ClockHalf.vacant, sq := SeqHalf.vacant, lastReport := none }
      pool := st.sq.held.foldl Pool.free s.pool
      ring := { s.ring with records := s.ring.records.map fun r =>
        if (st.clk.state = .locked ∨ st.clk.state = .tracking) ∧ r.state = .opened ∧
            r.entries[k].status = .waiting then
          { r with entries := put r.entries k { r.entries[k] with status := .absentRemoved } }
        else r } }) ∧
    (let turned : Station := { st with clk := { st.clk with zone := z, action := a } }
     let moved : State := { s with stations := put s.stations k turned }
     let joined : Station := { st with
       clk := { st.clk with zone := z, action := a }, sq := { st.sq with depth := depth } }
     let u : State := { s with
       stations := put s.stations k joined
       ring := { s.ring with records := s.ring.records.map fun r =>
         if st.clk.zone = z then r else movedRecord moved k z r } }
     let set := applyItem s (.setStation k z depth a)
     (st.sq.held.length ≤ depth → set = u) ∧
     (depth < st.sq.held.length →
       let kept : SeqHalf := { (station k u).sq with
         held := st.sq.held.take depth
         heldSince := if depth = 0 then none else st.sq.heldSince
         discarded := min (st.sq.discarded + (st.sq.held.length - depth)) 65535 }
       (st.clk.state = .acquiring ∨ st.clk.state = .quarantined → set = { u with
         stations := put u.stations k { station k u with sq := kept }
         pool := (st.sq.held.drop depth).reverse.foldl Pool.free s.pool }) ∧
       (st.clk.state ≠ .acquiring → st.clk.state ≠ .quarantined →
         set = giveUpToDepth k st.sq.held.length u))) ∧
    (∀ n : Nat,
      (st.sq.held.length ≤ st.sq.depth → giveUpToDepth k n s = s) ∧
      (st.sq.depth < st.sq.held.length →
        giveUpToDepth k (n + 1) s = giveUpToDepth k n (giveUp k s).1)) ∧
    (let u : State := { s with sup := { s.sup with zones := put s.sup.zones z e } }
     applyItem s (.setZone z e) = { u with ring := { s.ring with
       records := s.ring.records.map (rezonedRecord u z) } }) ∧
    (∀ o : Occupancy,
      (checkItem o (.setZone z e) = .ok o) ∧
      (o[k].isSome = true → checkItem o (.addStation k code z depth a) = .error .slotInUse ∧
        checkItem o (.removeStation k) = .ok (put o k none) ∧
        checkItem o (.setStation k z depth a) = .ok o) ∧
      (o[k] = none → checkItem o (.removeStation k) = .error .slotVacant ∧
        checkItem o (.setStation k z depth a) = .error .slotVacant ∧
        ((∃ j : Slot, o[j] = some code) →
          checkItem o (.addStation k code z depth a) = .error .codeInUse) ∧
        ((∀ j : Slot, o[j] ≠ some code) →
          checkItem o (.addStation k code z depth a) = .ok (put o k (some code)))))

/-! ## Supervision -/

/-- CLAIM_SUPERVISOR (R140) on a free role, on a role held elsewhere and on one's own, and RELEASE_SUPERVISOR of the holder (R141): the role FREE, a quiesce ended with its staged set, an uncommitted staged copy dropped, and SUPERVISOR_RELEASED on all ports. -/
def Obligations.TheRoleIsClaimedAndReleased : Prop :=
  ∀ (s : State) (x : Xfer) (seed : BitVec 16), Takes x s → (rightsOf x.port s).supervise = true →
    let challenge : BitVec 16 := if seed = 0 then 0xACE1 else seed
    let w := s.sup.active.checkinPeriod * 50000
    (s.sup.role = none → exec (.claimSupervisor x seed) s = .next
      (answered x (.reply x.tag 16 .done
        [.num 2 challenge.toNat, .num 3 w, .num 1 s.sup.active.checkinThreshold])
        { s with sup := { s.sup with
          role := some { port := x.port, challenge := challenge, windowStart := now s,
                         windowLength := w }
          errors := 0 } })) ∧
    (∀ h : Holder, s.sup.role = some h →
      (h.port ≠ x.port → exec (.claimSupervisor x seed) s = .next
        (answered x (.reply x.tag 16 .held [.num 1 h.port.val])
          (raiseIf (fun q => q == h.port) .contender s))) ∧
      (h.port = x.port → exec (.claimSupervisor x seed) s = .next
        (answered x (.reply x.tag 16 .already []) s)) ∧
      (h.port = x.port → exec (.releaseSupervisor x) s = .next
        (answered x (.reply x.tag 17 .done []) (raiseAll .supervisorReleased
          { s with sup := { s.sup with
            role := none, stagedTuning := none, quiesce := .running
            staged := if s.sup.quiesce = .running then s.sup.staged else [] } }))))

/-- The challenge generator and the good answers (R143): one step shifts towards the low end and combines with 0xB400 when the bit shifted out was 1, and never reaches 0 from another value; a good answer is the challenge plus the low 16 bits of the release count or of the release count - 1. CHECK_IN of the holder (R144) and CHECKIN_MISS (R142, R145): EARLY in a CLOSED window, WRONG for an answer that is not good, DONE for a good one, which works off an error and advances the challenge; every one starts a new window. An error counts and raises CHECKIN_ERROR, and the role lapses at the threshold, after the reply's fields are formed. A window whose end has passed while its miss is still to come is judged OPEN (log 26), and the reply writes the time left until the window opens in 3 bytes (log 12): both the model's choice. Before the end of the window, which is held in range (R9, log 9), there is no miss (log 2, 30). -/
def Obligations.CheckInsAreJudgedByTheWindow : Prop :=
  (∀ c : BitVec 16, advanceChallenge c =
      (if c.getLsbD 0 = true then (c >>> 1) ^^^ 0xB400#16 else c >>> 1) ∧
    (c ≠ 0 → advanceChallenge c ≠ 0) ∧
    ∀ (r : BitVec 16) (n : Nat), goodResponse c r n = true ↔
      r.toNat = (c.toNat + n % 65536) % 65536 ∨
      r.toNat = (c.toNat + (n + 65535) % 65536) % 65536) ∧
  (∀ (s : State) (h : Holder), s.sup.role = some h →
    let w := s.sup.active.checkinPeriod * 50000
    let renewed (c : BitVec 16) : Holder :=
      { port := h.port, challenge := c, windowStart := now s, windowLength := w }
    let reply (n : Nat) (c : BitVec 16) : List Field :=
      [.num 1 n, .num 2 c.toNat, .num 3 w, .num 3 (w / 2)]
    let erred : State := raiseIf (fun q => q == h.port) .checkinError
      { s with sup := { s.sup with errors := s.sup.errors + 1, role := some (renewed h.challenge) } }
    let lapsed : State := raiseAll .supervisorLapsed { erred with sup := { s.sup with
      errors := s.sup.errors + 1, role := none, stagedTuning := none, quiesce := .running
      staged := if s.sup.quiesce = .running then s.sup.staged else [] } }
    let after : State :=
      if s.sup.active.checkinThreshold ≤ s.sup.errors + 1 then lapsed else erred
    (∀ (x : Xfer) (a : BitVec 16), Takes x s → (rightsOf x.port s).supervise = true →
      h.port = x.port →
      (now s - h.windowStart < h.windowLength / 2 → exec (.checkIn x a) s = .next
        (answered x (.reply x.tag 18 .early (reply (s.sup.errors + 1) h.challenge)) after)) ∧
      (h.windowLength / 2 ≤ now s - h.windowStart →
        (goodResponse h.challenge a s.ring.releaseCount = false → exec (.checkIn x a) s = .next
          (answered x (.reply x.tag 18 .wrong (reply (s.sup.errors + 1) h.challenge)) after)) ∧
        (goodResponse h.challenge a s.ring.releaseCount = true → exec (.checkIn x a) s = .next
          (answered x (.reply x.tag 18 .done
            (reply (s.sup.errors - 1) (advanceChallenge h.challenge)))
            { s with sup := { s.sup with errors := s.sup.errors - 1,
                                         role := some (renewed (advanceChallenge h.challenge)) } })))) ∧
    (min (h.windowStart + h.windowLength) (2 ^ 56 - 1) ≤ now s →
      exec .checkinMiss s = .next after) ∧
    (now s < min (h.windowStart + h.windowLength) (2 ^ 56 - 1) → exec .checkinMiss s = .next s))

/-- QUIESCE_REQUEST of the supervisor (R146) and the grant of the quiesce (R147): QUIESCING, and QUIESCED at once, with QUIESCE_GRANTED, when no SUBMIT-class request is pending and no re-time is queued or running; the hold of 0 is 30 s. QUIESCE_GRANT is the operation `tryQuiesceGrant` that the events which end a re-time or take a request out of a queue call as well (log 4). Only QUIESCING is granted: a state that is RUNNING or QUIESCED stays as it is (R147, log 2), and so does one whose conditions do not both hold. -/
def Obligations.AQuiesceIsGrantedWhenNothingIsPending : Prop :=
  ∀ s : State,
    let quiet : Prop := (∀ p : PortId, ∀ q ∈ (port p s).queue, reqClass q.req ≠ .submit) ∧
      s.retime.queue = [] ∧ s.retime.running = none
    let held (hold : Nat) : Quiesce := .quiesced (min (now s + hold * 1000000) (2 ^ 56 - 1))
    (∀ (x : Xfer) (b : Byte), Supervises x s →
      let hold := if b = 0 then 30 else b.toNat
      (s.sup.quiesce ≠ .running → exec (.quiesceRequest x b) s = .next
        (answered x (.reply x.tag 19 .wrongState []) s)) ∧
      (s.sup.quiesce = .running → quiet → exec (.quiesceRequest x b) s = .next
        (answered x (.reply x.tag 19 .done [.num 1 2]) (raiseIf (fun q => isSup q s) .quiesceGranted
          { s with sup := { s.sup with quiesce := held hold } }))) ∧
      (s.sup.quiesce = .running → ¬quiet → exec (.quiesceRequest x b) s = .next
        (answered x (.reply x.tag 19 .done [.num 1 1])
          { s with sup := { s.sup with quiesce := .quiescing hold } }))) ∧
    (∀ hold : Nat, s.sup.quiesce = .quiescing hold →
      (quiet → exec .quiesceGrant s = .next (raiseIf (fun q => isSup q s) .quiesceGranted
        { s with sup := { s.sup with quiesce := held hold } })) ∧
      (¬quiet → exec .quiesceGrant s = .next s)) ∧
    (s.sup.quiesce = .running ∨ (∃ d : Nat, s.sup.quiesce = .quiesced d) →
      exec .quiesceGrant s = .next s) ∧
    exec .quiesceGrant s = .next (tryQuiesceGrant s)

/-- QUIESCE_END(DISCARD) and the hold expiry (R148): NOT_SUPERVISOR and WRONG_STATE, and otherwise RUNNING with the staged set empty; the discard counts the items in its reply, the expiry raises QUIESCE_EXPIRED on the holder's port, and before the hold deadline or outside QUIESCED there is none (log 2, 30). -/
def Obligations.AQuiesceEndsByDiscardOrExpiry : Prop :=
  ∀ s : State,
    let ended : State := { s with sup := { s.sup with quiesce := .running, staged := [] } }
    (∀ x : Xfer, Takes x s → (rightsOf x.port s).supervise = true → isSup x.port s = false →
      exec (.quiesceEndDiscard x) s = .next
        (answered x (.reply x.tag 20 .notSupervisor []) s)) ∧
    (∀ x : Xfer, Supervises x s →
      (s.sup.quiesce = .running → exec (.quiesceEndDiscard x) s = .next
        (answered x (.reply x.tag 20 .wrongState []) s)) ∧
      (s.sup.quiesce ≠ .running → exec (.quiesceEndDiscard x) s = .next
        (answered x (.reply x.tag 20 .done [.num 1 s.sup.staged.length]) ended))) ∧
    (∀ d : Nat, s.sup.quiesce = .quiesced d →
      (d ≤ now s → exec .quiesceHoldExpiry s = .next
        (raiseIf (fun q => isSup q s) .quiesceExpired ended)) ∧
      (now s < d → exec .quiesceHoldExpiry s = .next s)) ∧
    (s.sup.quiesce.isQuiesced = false → exec .quiesceHoldExpiry s = .next s)

/-- STAGE_SHAPE (R149) and SET_RIGHTS (R156) of the supervisor: the refusals in order; a staged item joins the tail of the set and is answered with its index; a rights entry replaces that of the named port, never the supervisor's own. Then the range checks written out: each item of R149 with its fields in their order, the first one out of range named by its offset in the body (R176; that it is the first is the model's choice, log 20), and in range the item with every field as given; and the entry of R156, whose refusals name the port, the credit limit, the two policies, the rights and the subscriptions in that order, the model's choice (log 20), with every field in range kept. -/
def Obligations.ShapeItemsAndRightsAreCheckedThenKept : Prop :=
  (∀ (s : State) (x : Xfer), Supervises x s →
    (∀ item : RawItem,
      (s.sup.quiesce.isQuiesced = false → exec (.stageShape x item) s = .next
        (answered x (.reply x.tag 21 .wrongState []) s)) ∧
      (s.sup.quiesce.isQuiesced = true →
        (∀ o : Nat, parseShape item = .error o → exec (.stageShape x item) s = .next
          (answered x (.reply x.tag 21 .badRequest [.num 1 o]) s)) ∧
        (∀ i : ShapeItem, parseShape item = .ok i →
          ItemInRange i = true ∧
          (32 ≤ s.sup.staged.length → exec (.stageShape x item) s = .next
            (answered x (.reply x.tag 21 .stageFull []) s)) ∧
          (s.sup.staged.length < 32 → exec (.stageShape x item) s = .next
            (answered x (.reply x.tag 21 .done [.num 1 (s.sup.staged.length + 1)])
              { s with sup := { s.sup with staged := s.sup.staged ++ [i] } }))))) ∧
    (∀ r : RightsReq,
      (∀ o : Nat, parseRights r = .error o → exec (.setRights x r) s = .next
        (answered x (.reply x.tag 26 .badRequest [.num 1 o]) s)) ∧
      (∀ (q : PortId) (e : Rights), parseRights r = .ok (q, e) →
        1 ≤ e.credit ∧ e.credit ≤ 8 ∧
        (q = x.port → exec (.setRights x r) s = .next
          (answered x (.reply x.tag 26 .selfTarget []) s)) ∧
        (q ≠ x.port → exec (.setRights x r) s = .next
          (answered x (.reply x.tag 26 .done [])
            { s with sup := { s.sup with rights := put s.sup.rights q e } }))))) ∧
  (∀ (slot zone depth action : Byte) (code : BitVec 16),
    let add := parseShape (.addStation slot code zone depth action)
    let set := parseShape (.setStation slot zone depth action)
    let remove := parseShape (.removeStation slot)
    (64 ≤ slot.toNat → add = .error 1 ∧ set = .error 1 ∧ remove = .error 1) ∧
    (∀ k : Slot, k.val = slot.toNat →
      remove = .ok (.removeStation k) ∧
      (8 ≤ zone.toNat → add = .error 4 ∧ set = .error 2) ∧
      (∀ z : ZoneId, z.val = zone.toNat →
        (7 ≤ depth.toNat → add = .error 5 ∧ set = .error 3) ∧
        (depth.toNat ≤ 6 →
          (3 ≤ action.toNat → add = .error 6 ∧ set = .error 4) ∧
          (∀ a : FaultAction, [FaultAction.notify, .reacquire, .quarantine][action.toNat]? = some a →
            add = .ok (.addStation k code.toNat z depth.toNat a) ∧
            set = .ok (.setStation k z depth.toNat a)))))) ∧
  (∀ (zone mode budget extension : Byte) (cap : BitVec 16) (hold : Byte),
    let set := parseShape (.setZone zone mode budget extension cap hold)
    (8 ≤ zone.toNat → set = .error 1) ∧
    (∀ z : ZoneId, z.val = zone.toNat →
      (4 ≤ mode.toNat → set = .error 2) ∧
      (∀ m : WaitMode, [WaitMode.fixed, .adaptive, .signalled, .noWait][mode.toNat]? = some m →
        (3600 < cap.toNat → set = .error 5) ∧
        (cap.toNat ≤ 3600 → set = .ok (.setZone z
          { mode := m, budget := budget.toNat, extension := extension.toNat, cap := cap.toNat,
            hold := hold.toNat }))))) ∧
  (∀ t : Byte, parseShape (.unknown t) = .error 0) ∧
  (∀ r : RightsReq,
    (4 ≤ r.port.toNat → parseRights r = .error 0) ∧
    (∀ q : PortId, q.val = r.port.toNat →
      (r.credit = 0 ∨ 8 < r.credit.toNat → parseRights r = .error 3) ∧
      (1 ≤ r.credit.toNat → r.credit.toNat ≤ 8 →
        (2 ≤ r.framePolicy.toNat → parseRights r = .error 4) ∧
        (r.framePolicy.toNat ≤ 1 → 2 ≤ r.violationPolicy.toNat → parseRights r = .error 5) ∧
        (r.framePolicy.toNat ≤ 1 → r.violationPolicy.toNat ≤ 1 →
          (8 ≤ r.rights.toNat → parseRights r = .error 1) ∧
          (r.rights.toNat ≤ 7 → 16 ≤ r.subscriptions.toNat → parseRights r = .error 2) ∧
          (r.rights.toNat ≤ 7 → r.subscriptions.toNat ≤ 15 → parseRights r = .ok (q,
            { submit := r.rights.getLsbD 0, consume := r.rights.getLsbD 1
              supervise := r.rights.getLsbD 2
              subscriptions := BitVec.ofNat 4 r.subscriptions.toNat
              credit := r.credit.toNat
              framePolicy := if r.framePolicy = 0 then .drop else .halt
              violation := if r.violationPolicy = 0 then .refuse else .absorb }))))))

/-- STAGE_TUNING, DISCARD_TUNING (R153) and COMMIT_TUNING (R154) of the supervisor: a copy is made of the committed set, or of the active one; the item takes the value; a discard drops the copy and leaves a committed set; a commit waits while the ring is ACTIVE and is taken at once while it is STOPPED. What a taking does (R114, R154): the committed set is the active one, TUNING_TAKEN is raised on the supervisor port, the sweep trigger restarts when its trigger or N changed (R43), every group's stall deadline is set afresh (R137), and the role lapses with SUPERVISOR_LAPSED when the new threshold is at or below the error counter (R145); without a committed set nothing is taken. When it is made (R114): at the end of an event in which a record was sealed, which the model latches in sealMade (log 7). -/
def Obligations.TuningIsStagedDroppedAndCommitted : Prop :=
  (∀ (s : State) (x : Xfer), Supervises x s →
    let copy : Tuning := (s.sup.stagedTuning.or s.sup.committed).getD s.sup.active
    (∀ (item : Byte) (v : BitVec 32),
      (tuningRange item.toNat = none → exec (.stageTuning x item v) s = .next
        (answered x (.reply x.tag 22 .badRequest [.num 1 0]) s)) ∧
      (∀ lo hi : Nat, tuningRange item.toNat = some (lo, hi) →
        (v.toNat < lo ∨ hi < v.toNat → exec (.stageTuning x item v) s = .next
          (answered x (.reply x.tag 22 .badRequest [.num 1 1]) s)) ∧
        (lo ≤ v.toNat → v.toNat ≤ hi → exec (.stageTuning x item v) s = .next
          (answered x (.reply x.tag 22 .done [])
            { s with sup := { s.sup with
              stagedTuning := some (copy.put item.toNat v.toNat) } })))) ∧
    (s.sup.stagedTuning = none →
      exec (.discardTuning x) s = .next (answered x (.reply x.tag 24 .wrongState []) s) ∧
      exec (.commitTuning x) s = .next (answered x (.reply x.tag 23 .wrongState []) s)) ∧
    (∀ t : Tuning, s.sup.stagedTuning = some t →
      let kept : State := { s with sup := { s.sup with stagedTuning := none, committed := some t } }
      (exec (.discardTuning x) s = .next (answered x (.reply x.tag 24 .done [])
        { s with sup := { s.sup with stagedTuning := none } })) ∧
      (s.ring.state = .active → exec (.commitTuning x) s = .next
        (answered x (.reply x.tag 23 .done [.bit false]) kept)) ∧
      (s.ring.state = .stopped → exec (.commitTuning x) s = .next
        (answered x (.reply x.tag 23 .done [.bit true]) (takeTuning kept))))) ∧
  (∀ s : State,
    (s.sup.committed = none → takeTuning s = s) ∧
    (∀ t : Tuning, s.sup.committed = some t →
      let taken : State := raiseIf (fun p => isSup p s) .tuningTaken { s with
        sup := { s.sup with active := t, committed := none }
        sweep := if s.sup.active.trigger = t.trigger ∧ s.sup.active.sweepN = t.sweepN then s.sweep
          else { cursor := s.sweep.cursor, pulses := 0
                 deadline := if t.trigger = .interval then
                   some (min (now s + t.sweepN * 1000000) (2 ^ 56 - 1)) else none }
        groups := imap (fun _ gr => { gr with
          stall := stallDeadline gr { s with sup := { s.sup with active := t } } }) s.groups }
      (s.sup.role = none ∨ s.sup.errors < t.checkinThreshold → takeTuning s = taken) ∧
      (s.sup.role.isSome = true → t.checkinThreshold ≤ s.sup.errors → takeTuning s =
        raiseAll .supervisorLapsed { taken with sup := { s.sup with
          active := t, committed := none, role := none, stagedTuning := none, quiesce := .running
          staged := if s.sup.quiesce = .running then s.sup.staged else [] } })) ∧
    (s.sealMade = false → finishSeals s = s) ∧
    (s.sealMade = true → finishSeals s = takeTuning { s with sealMade := false }))

/-! ## Attention and ports -/

/-- The line is asserted while a cause is pending with its mask enabled (R173); SET_CAUSE_MASK sets one mask, but not those of RESET_NOTICE and SUPERVISOR_LAPSED to disabled (R173); ACK_CAUSE clears a pending cause when it names the present count (R175). That SET_CAUSE_MASK tests its cause number before its value, refuses a value above 1 and tests both before WRONG_STATE is the model's choice (log 20), and so is the line's state written as 1 while it is asserted (log 12). What a raising does, whatever the mask and whether or not the cause was pending (R172): on every port selected the record of the cause, at its place in Table 11-1, becomes pending and its count goes up by 1, from 255 to 0; its mask and every other record and port stay, and nothing else of the state changes. The ports it reaches: all four, or a port and the supervisor port once, or the supervisor port, which is the port of the holder and none while the role is FREE. -/
def Obligations.CausesAreMaskedAndAcknowledged : Prop :=
  (∀ (s : State) (x : Xfer), Takes x s →
    ((port x.port s).attention = true ↔
      ∃ c : Fin 21, (port x.port s).causes[c].pending = true ∧
        (port x.port s).causes[c].mask = true) ∧
    (∀ b v : Byte, causeOf b = none →
      exec (.setCauseMask x b v) s = .next (answered x (.reply x.tag 30 .badRequest [.num 1 0]) s) ∧
      exec (.ackCause x b v) s = .next (answered x (.reply x.tag 29 .badRequest [.num 1 0]) s)) ∧
    (∀ (b v : Byte) (c : Fin 21), causeOf b = some c →
      (1 < v.toNat → exec (.setCauseMask x b v) s = .next
        (answered x (.reply x.tag 30 .badRequest [.num 1 1]) s)) ∧
      (v = 0 → c.val ≤ 1 → exec (.setCauseMask x b v) s = .next
        (answered x (.reply x.tag 30 .wrongState []) s)) ∧
      (v.toNat ≤ 1 → ¬(v = 0 ∧ c.val ≤ 1) →
        let set (p : PortState) : PortState := { p with
          causes := put p.causes c { p.causes[c] with mask := v.toNat == 1 } }
        exec (.setCauseMask x b v) s = .next
          (answered x (.reply x.tag 30 .done [.bit (set (port x.port s)).attention])
            (updPort x.port set s))) ∧
      ((port x.port s).causes[c].pending = false → exec (.ackCause x b v) s = .next
        (answered x (.reply x.tag 29 .wrongState []) s)) ∧
      ((port x.port s).causes[c].pending = true →
        ((port x.port s).causes[c].count = v → exec (.ackCause x b v) s = .next
          (answered x (.reply x.tag 29 .done []) (updPort x.port (fun p => { p with
            causes := put p.causes c { p.causes[c] with pending := false } }) s))) ∧
        ((port x.port s).causes[c].count ≠ v → exec (.ackCause x b v) s = .next
          (answered x (.reply x.tag 29 .staleAck
            [.num 1 (port x.port s).causes[c].count.toNat]) s))))) ∧
  (∀ (p : PortState) (c : Cause), p.raise c = { p with
    causes := put p.causes c.order
      { pending := true
        count := if p.causes[c.order].count = 255 then 0 else p.causes[c.order].count + 1
        mask := p.causes[c.order].mask } }) ∧
  (∀ (s : State) (sel : PortId → Bool) (c : Cause) (q : PortId),
    raiseIf sel c s = { s with
      ports := imap (fun p ps => if sel p = true then ps.raise c else ps) s.ports } ∧
    raiseAll c s = raiseIf (fun _ => true) c s ∧
    raiseSup c s = raiseIf (fun p => isSup p s) c s ∧
    raiseWithSup q c s = raiseIf (fun p => decide (p = q) || isSup p s) c s ∧
    (isSup q s = true ↔ ∃ h : Holder, s.sup.role = some h ∧ h.port = q)) ∧
  ([Cause.resetNotice, .supervisorLapsed, .supervisorReleased, .networkResetDone, .timeDegraded,
    .referenceSlip, .frameError, .accessViolation, .contender, .checkinError, .quiesceGranted,
    .quiesceExpired, .tuningTaken, .retimeDone, .stationFault, .stepTaken, .stationState,
    .poolExhausted, .epochReleased, .groupOverrun, .groupStalled].map (fun c => c.order.val) =
    List.range 21)

/-- RESUME_PORT (R171) clears HALTED and says whether it was set; PORT_RESET (R170) is taken by any port, HALTED or full: queues, slot, counts and causes clear, the reply the only frame, the role ended when the port held it, and a quiesce that waited for the withdrawn requests granted. R170 does not speak of the transaction that carries the reset: that no transaction is in progress after it (log 6), and that the port keeps the bytes which it carried (log 27), are the model's choices. -/
def Obligations.PortsResumeAndReset : Prop :=
  ∀ (s : State) (x : Xfer),
    let cleaned : State := updPort x.port (fun _ =>
      { out := [.reply x.tag 33 .done []], reservations := 0, inFlight := 0, halted := false,
        dropped := 0, queue := [], urgent := none, age := 0, guards := 0, overdue := false,
        causes := Vector.ofFn fun _ => { pending := false, count := 0, mask := true },
        txn := none, sent := ((port x.port s).endTxn x.clocked).sent }) s
    (HasPlace x s → exec (.resumePort x) s = .next
      (answered x (.reply x.tag 32 .done [.bit (port x.port s).halted])
        (updPort x.port (fun p => { p with halted := false }) s))) ∧
    (isSup x.port s = false → exec (.portReset x) s = .next (tryQuiesceGrant cleaned)) ∧
    (isSup x.port s = true → exec (.portReset x) s = .next (tryQuiesceGrant
      (raiseAll .supervisorReleased { cleaned with sup := { s.sup with
        role := none, stagedTuning := none, quiesce := .running
        staged := if s.sup.quiesce = .running then s.sup.staged else [] } })))

/-! ## Silence and hold -/

/-- SILENCE_EXPIRY (R52) sets SILENT, raises STATION_STATE on the supervisor port and hands over an ABSENT_SILENT notice when the station was eligible; HOLD_EXPIRY (R74, R75) restarts the timer of a frozen list, and of a station that delivers gives up the front hole (R73; ADeliveredBlockIsFiled gives it for every list): the lowest held block is delivered and the expected sequence passes it. Before its time neither is an event (log 2, 30). That the notice waits at the end of State.notices is the model's choice (log 5), and so is the latch that says whether a given-up hole made a seal (log 7). -/
def Obligations.SilenceAndHoldExpireOnTime : Prop :=
  ∀ (s : State) (k : Slot),
    let q := (station k s).sq
    let c := (station k s).clk
    let limit := (tuning s).silenceLimit * 1000000
    let hold := (zoneEntry c.zone s).hold * 1000000
    (c.state = .vacant ∨ q.silent = true ∨ s.sup.quiesce ≠ .running ∨
        s.silenceClock - q.silenceMark < limit → exec (.silenceExpiry k) s = .next s) ∧
    (c.state ≠ .vacant → q.silent = false → s.sup.quiesce = .running →
      limit ≤ s.silenceClock - q.silenceMark → exec (.silenceExpiry k) s = .next
        (let t := raiseIf (fun p => isSup p s) .stationState
          (updSeq k (fun q => { q with silent := true }) s)
         if (c.state = .locked ∨ c.state = .tracking) ∧ (zoneEntry c.zone s).mode ≠ .noWait then
           { t with notices := s.notices ++ [{ slot := k, status := .absentSilent }] } else t)) ∧
    (q.held = [] → exec (.holdExpiry k) s = .next s) ∧
    (∀ since : Nat, q.held ≠ [] → q.heldSince = some since →
      (now s - since < hold → exec (.holdExpiry k) s = .next s) ∧
      (hold ≤ now s - since → c.state = .acquiring ∨ c.state = .quarantined →
        exec (.holdExpiry k) s = .next (updSeq k (fun q => { q with heldSince := some (now s) }) s)) ∧
      (hold ≤ now s - since → c.state.aged = true →
        exec (.holdExpiry k) s = .next (finishSeals (giveUp k s).1)) ∧
      (∀ (i : Nat) (b : Block) (e : SeqNo), hold ≤ now s - since → c.state.aged = true →
        q.held = [i] → block i s = some b → b.slot = k → q.expected = some e → s.sealMade = false →
        ∃ t, exec (.holdExpiry k) s = .next t ∧
          (station k t).sq = { q with
            held := [], heldSince := none, expected := some (b.seq + 1)
            history := (q.history <<< (b.seq - e).toNat <<< 1) ||| 1
            lastEnd := some (min (b.start + duration b.samples b.rate) (2 ^ 56 - 1))
            deliveredUntil := some (max (q.deliveredUntil.getD 0)
              (min (c.convert b.start + duration b.samples b.rate) (2 ^ 56 - 1))) } ∧
          (station k t).clk = c ∧ (∀ j : Slot, j ≠ k → station j t = station j s) ∧ t.tb = s.tb))

/-! ## Invariants that every step keeps -/

/-- The tuning sets, zone table, staged items and credit limits stay in their ranges (R149, R153, R156), and so do now, the silence clock, the slip count and the last phase (R1, R5, R9, R50). -/
def Obligations.RangesAreKept : Prop :=
  ∀ s t : State, TablesInRange s → step s = .next t →
    TablesInRange t ∧ (TimeInRange s → TimeInRange t)

/-- A holder stays below the threshold (R145); a quiesce and a staged tuning copy have a holder, since both end with the role (R141, R145); items are staged only while QUIESCED, and at most 32 (R149); no committed set waits on a STOPPED ring, where it would have been taken (R154, R114); and the latch that says a seal was made in the event in progress is clear between commands, which is the model's choice (log 7). -/
def Obligations.SupervisionStaysConsistent : Prop :=
  ∀ s t : State, TablesInRange s → SupervisionConsistent s → step s = .next t →
    SupervisionConsistent t

/-- Each port's entries and reservations never exceed 12, every reservation belongs to a waiting request, the grant order stays an order of the four ports (R158, R163, R166), and the masks of RESET_NOTICE and SUPERVISOR_LAPSED stay enabled (R173). -/
def Obligations.PortsStayBalanced : Prop :=
  ∀ s t : State, step s = .next t →
    (TablesInRange s → PortsBalanced s → PortsBalanced t) ∧ (MasksStand s → MasksStand t)

/-- The ring stays consecutive, within 48 records, non-empty exactly while ACTIVE, and its boundary deadline follows the newest record (R80, R82, R86, R88). -/
def Obligations.TheRingStaysConsecutive : Prop :=
  ∀ s t : State, RingConsistent s → step s = .next t → RingConsistent t

/-- Release stays in epoch order, no SEALED record waits at the release point, and only OPEN records have a station WAITING (R83, R84, R112). -/
def Obligations.ReleaseStaysInEpochOrder : Prop :=
  ∀ s t : State, RingConsistent s → ReleaseConsistent s → step s = .next t →
    ReleaseConsistent t

/-- The relations of R129 between cursors and awaiting sets stay, and each group's state keeps what R127 gives it. -/
def Obligations.GroupsFollowTheRing : Prop :=
  ∀ s t : State, RingConsistent s → ReleaseConsistent s → GroupsConsistent s → step s = .next t →
    GroupsConsistent t

/-- The pool keeps its form, its records add up to 8192, and no two records in use hold blocks of one station with one sequence number (R55, R62). -/
def Obligations.ThePoolKeepsItsForm : Prop :=
  ∀ s t : State, PoolConsistent s → step s = .next t → PoolConsistent t

/-- No record returns to an earlier state, and what a SEALED or RELEASED record holds stays: its entries, block list, late count, seal reason and seal time, whatever the command (R83). -/
def Obligations.SealedRecordsStayAsTheyAre : Prop :=
  ∀ s t : State, RingConsistent s → step s = .next t →
    ∀ x ∈ s.ring.records, ∀ y ∈ t.ring.records, y.epoch = x.epoch →
      (x.state ≠ .opened → y.state ≠ .opened ∧ y.entries = x.entries ∧ y.blocks = x.blocks ∧
        y.late = x.late ∧ y.reason = x.reason ∧ y.sealTime = x.sealTime ∧
        y.deferred = x.deferred) ∧
      (x.state = .released → y.state = .released ∧ y.releaseTime = x.releaseTime)

/-! ## Frames -/

/-- The frame of every well-formed request, header, body and CRC, with any bytes clocked after it up to its transaction's length, is read back as that request with every field (12.2, 12.5, R159, R161, R162, R176). The bytes after the CRC may have any values; with bytes of 0 the frame is the one that Instr.frame writes. Then every transaction by its bytes: no byte is no request (R159); fewer than 3 bytes, or fewer than the length stated plus the CRC, is truncated, and a CRC that does not match is corrupt, both FRAME_ERROR, whatever the kind, tag and body (R161); and a frame that passes with a kind code above 33, or with a body of another length than Table 12-3 gives its kind, is UNKNOWN_REQUEST_KIND (R162), a poll with a body among them; and any other is the well-formed request of its kind, tag and body, the spare bytes of a STAGE_SHAPE, which are not read, in place of which a frame has 0 (R176). -/
def Obligations.FramesAreReadBackWhole : Prop :=
  (∀ (i : Instr) (x : Xfer) (k : Nat), i.wf = true → i.request = some (x, k) →
    let head : List Byte := frameHead x (BitVec.ofNat 8 k) i.body
    (∀ after : List Byte, (head ++ bytes16 (crc16 head) ++ after).length = x.clocked →
      frameCommand x.port (head ++ bytes16 (crc16 head) ++ after) = i) ∧
    (∀ bytes : List Byte, i.frame = some bytes → frameCommand x.port bytes = i)) ∧
  (∀ p : PortId,
    frameCommand p [] = .transactionWithoutRequest p 0 ∧
    (∀ bytes : List Byte, bytes ≠ [] → bytes.length < 3 →
      frameCommand p bytes = .frameError p bytes.length .truncated) ∧
    (∀ (kind tag n : Byte) (rest : List Byte), rest.length < n.toNat + 2 →
      frameCommand p (kind :: tag :: n :: rest) = .frameError p (rest.length + 3) .truncated) ∧
    (∀ (kind tag n a b : Byte) (body after : List Byte), body.length = n.toNat →
      let head : List Byte := [kind, tag, n] ++ body
      let bytes : List Byte := head ++ [a, b] ++ after
      let lengths : List Nat := [0, 18, 16, 8, 1, 1, 1, 7, 5, 1, 8, 8, 0, 0, 1, 0, 2, 0, 2, 1, 0, 8,
        5, 0, 0, 7, 6, 0, 0, 2, 2, 0, 0, 0]
      ([a, b] ≠ bytes16 (crc16 head) → frameCommand p bytes = .frameError p bytes.length .corrupt) ∧
      ([a, b] = bytes16 (crc16 head) → lengths[kind.toNat]? ≠ some body.length →
        frameCommand p bytes =
          .unknownRequestKind { port := p, tag := tag, clocked := bytes.length } kind n) ∧
      ([a, b] = bytes16 (crc16 head) → lengths[kind.toNat]? = some body.length →
        let i := frameCommand p bytes
        let read : Nat := ([1, 7, 2, 5, 8][(body.headD 0).toNat]?).getD 1
        i.wf = true ∧
        i.request = some ({ port := p, tag := tag, clocked := bytes.length }, kind.toNat) ∧
        i.body = if kind = 21 then body.take read ++ List.replicate (8 - read) 0 else body)))

end Statements
end

