-- ==== Sys2Proof/Laws/Frames.lean ====
section
/-! SUPPORT. Reading frames: numbers and their bytes are read back, a body is read exactly when it has the length of its kind, and what a whole frame is read as. -/

namespace Sys2Proof

/-! ## Numbers of several bytes (R176) -/

/-- The bits of a number of two bytes. -/
theorem join16_getLsbD (a b : Byte) (i : Nat) :
    (join16 a b).getLsbD i = if i < 8 then b.getLsbD i else a.getLsbD (i - 8) :=
  BitVec.getLsbD_append

/-- The bits of a number of four bytes. -/
theorem join32_getLsbD (a b c d : Byte) (i : Nat) : (join32 a b c d).getLsbD i =
    if i < 16 then (join16 c d).getLsbD i else (join16 a b).getLsbD (i - 16) :=
  BitVec.getLsbD_append

/-- The bits of a number of seven bytes. -/
theorem join56_getLsbD (a b c d e f g : Byte) (i : Nat) : (join56 a b c d e f g).getLsbD i =
    if i < 24 then (if i < 8 then g.getLsbD i else (join16 e f).getLsbD (i - 8))
    else (join32 a b c d).getLsbD (i - 24) := by
  have h : (join16 e f ++ g).getLsbD i =
    if i < 8 then g.getLsbD i else (join16 e f).getLsbD (i - 8) := BitVec.getLsbD_append
  rw [← h]
  exact BitVec.getLsbD_append

/-- The bytes of a number read from two bytes are those bytes. -/
theorem bytes16_join16 (a b : Byte) : bytes16 (join16 a b) = [a, b] := by
  simp only [bytes16, List.cons.injEq, and_true]
  refine ⟨?_, ?_⟩ <;> apply BitVec.eq_of_getLsbD_eq <;> intro i h <;> interval_cases i <;>
    simp only [BitVec.getLsbD_extractLsb', join16_getLsbD] <;> rfl

/-- The bytes of a number read from four bytes are those bytes. -/
theorem bytes32_join32 (a b c d : Byte) : bytes32 (join32 a b c d) = [a, b, c, d] := by
  simp only [bytes32, List.cons.injEq, and_true]
  refine ⟨?_, ?_, ?_, ?_⟩ <;> apply BitVec.eq_of_getLsbD_eq <;> intro i h <;> interval_cases i <;>
    simp only [BitVec.getLsbD_extractLsb', join32_getLsbD, join16_getLsbD] <;> rfl

/-- The bytes of a number read from seven bytes are those bytes. -/
theorem bytes56_join56 (a b c d e f g : Byte) :
    bytes56 (join56 a b c d e f g) = [a, b, c, d, e, f, g] := by
  simp only [bytes56, List.cons.injEq, and_true]
  refine ⟨?_, ?_, ?_, ?_, ?_, ?_, ?_⟩ <;> apply BitVec.eq_of_getLsbD_eq <;> intro i h <;>
    interval_cases i <;>
    simp only [BitVec.getLsbD_extractLsb', join56_getLsbD, join32_getLsbD, join16_getLsbD] <;> rfl

/-- A 16-bit number is read back from its bytes. -/
theorem join16_bytes16 (v : BitVec 16) : join16 (v.extractLsb' 8 8) (v.extractLsb' 0 8) = v := by
  apply BitVec.eq_of_getLsbD_eq
  intro i h
  interval_cases i <;> simp only [BitVec.getLsbD_extractLsb', join16_getLsbD] <;> rfl

/-- A 32-bit number is read back from its bytes. -/
theorem join32_bytes32 (v : BitVec 32) : join32 (v.extractLsb' 24 8) (v.extractLsb' 16 8)
    (v.extractLsb' 8 8) (v.extractLsb' 0 8) = v := by
  apply BitVec.eq_of_getLsbD_eq
  intro i h
  interval_cases i <;>
    simp only [BitVec.getLsbD_extractLsb', join32_getLsbD, join16_getLsbD] <;> rfl

/-- A 56-bit number is read back from its bytes. -/
theorem join56_bytes56 (v : BitVec 56) : join56 (v.extractLsb' 48 8) (v.extractLsb' 40 8)
    (v.extractLsb' 32 8) (v.extractLsb' 24 8) (v.extractLsb' 16 8) (v.extractLsb' 8 8)
    (v.extractLsb' 0 8) = v := by
  apply BitVec.eq_of_getLsbD_eq
  intro i h
  interval_cases i <;>
    simp only [BitVec.getLsbD_extractLsb', join56_getLsbD, join32_getLsbD, join16_getLsbD] <;> rfl

/-! ## A body is read exactly when it has the length of its kind (Table 12-3, R162) -/

theorem readNone_isSome (c : Instr) (l : List Byte) :
    (readNone c l).isSome = true ↔ l.length = 0 := by
  constructor
  · unfold readNone; split <;> simp
  · intro h; match l, h with
    | [], _ => rfl

theorem readByte_isSome (c : Byte → Instr) (l : List Byte) :
    (readByte c l).isSome = true ↔ l.length = 1 := by
  constructor
  · unfold readByte; split <;> simp
  · intro h; match l, h with
    | [_], _ => rfl

theorem readTwo_isSome (c : Byte → Byte → Instr) (l : List Byte) :
    (readTwo c l).isSome = true ↔ l.length = 2 := by
  constructor
  · unfold readTwo; split <;> simp
  · intro h; match l, h with
    | [_, _], _ => rfl

theorem readWord_isSome (c : BitVec 16 → Instr) (l : List Byte) :
    (readWord c l).isSome = true ↔ l.length = 2 := by
  constructor
  · unfold readWord; split <;> simp
  · intro h; match l, h with
    | [_, _], _ => rfl

theorem readByteLong_isSome (c : Byte → BitVec 32 → Instr) (l : List Byte) :
    (readByteLong c l).isSome = true ↔ l.length = 5 := by
  constructor
  · unfold readByteLong; split <;> simp
  · intro h; match l, h with
    | [_, _, _, _, _], _ => rfl

theorem readByteTime_isSome (c : Byte → BitVec 56 → Instr) (l : List Byte) :
    (readByteTime c l).isSome = true ↔ l.length = 8 := by
  constructor
  · unfold readByteTime; split <;> simp
  · intro h; match l, h with
    | [_, _, _, _, _, _, _, _], _ => rfl

theorem readStartRing_isSome (x : Xfer) (l : List Byte) :
    (readStartRing x l).isSome = true ↔ l.length = 8 := by
  constructor
  · unfold readStartRing; split <;> simp
  · intro h; match l, h with
    | [_, _, _, _, _, _, _, _], _ => rfl

theorem readSetTime_isSome (x : Xfer) (l : List Byte) :
    (readSetTime x l).isSome = true ↔ l.length = 7 := by
  constructor
  · unfold readSetTime; split <;> simp
  · intro h; match l, h with
    | [_, _, _, _, _, _, _], _ => rfl

theorem readFetchPage_isSome (x : Xfer) (l : List Byte) :
    (readFetchPage x l).isSome = true ↔ l.length = 7 := by
  constructor
  · unfold readFetchPage; split <;> simp
  · intro h; match l, h with
    | [_, _, _, _, _, _, _], _ => rfl

theorem readSubmitBlock_isSome (x : Xfer) (l : List Byte) :
    (readSubmitBlock x l).isSome = true ↔ l.length = 18 := by
  constructor
  · unfold readSubmitBlock; split <;> simp
  · intro h; match l, h with
    | [_, _, _, _, _, _, _, _, _, _, _, _, _, _, _, _, _, _], _ => rfl

theorem readSubmitReport_isSome (x : Xfer) (l : List Byte) :
    (readSubmitReport x l).isSome = true ↔ l.length = 16 := by
  constructor
  · unfold readSubmitReport; split <;> simp
  · intro h; match l, h with
    | [_, _, _, _, _, _, _, _, _, _, _, _, _, _, _, _], _ => rfl

theorem readSetRights_isSome (x : Xfer) (l : List Byte) :
    (readSetRights x l).isSome = true ↔ l.length = 6 := by
  constructor
  · unfold readSetRights; split <;> simp
  · intro h; match l, h with
    | [_, _, _, _, _, _], _ => rfl

theorem readStageShape_isSome (x : Xfer) (l : List Byte) :
    (readStageShape x l).isSome = true ↔ l.length = 8 := by
  constructor
  · unfold readStageShape; split <;> simp
  · intro h; match l, h with
    | [_, _, _, _, _, _, _, _], _ => rfl

/-- A request is read from a body exactly when its kind is in the catalogue and the body has its length. -/
theorem readBody_isSome (x : Xfer) (kind : Byte) (body : List Byte) :
    (readBody x kind body).isSome = true ↔
      Machine.requestLength kind.toNat = some body.length := by
  have e (n : Nat) : (some n = some body.length) ↔ body.length = n := by
    rw [Option.some.injEq]; exact eq_comm
  unfold readBody
  generalize kind.toNat = k
  by_cases h : k < 34
  · interval_cases k <;>
      simp only [Machine.requestLength, readNone_isSome, readByte_isSome, readTwo_isSome,
        readWord_isSome, readByteLong_isSome, readByteTime_isSome, readStartRing_isSome,
        readSetTime_isSome, readFetchPage_isSome, readSubmitBlock_isSome, readSubmitReport_isSome,
        readSetRights_isSome, readStageShape_isSome] <;> exact (e _).symm
  · have : Machine.requestLength k = none := by
      unfold Machine.requestLength
      rw [List.getElem?_eq_none_iff]
      simp; omega
    rw [this]
    split <;> first | omega | simp

/-- A frame that passes the checks of R161 is its request, or the refusal of an unknown kind or a wrong body length (R162). -/
theorem frameCommand_whole (p : PortId) (kind tag n a b : Byte) (body after : List Byte)
    (h : body.length = n.toNat) :
    frameCommand p ([kind, tag, n] ++ body ++ [a, b] ++ after) =
      if [a, b] = bytes16 (Machine.crc16 ([kind, tag, n] ++ body)) then
        readRequest
          { port := p, tag := tag, clocked := ([kind, tag, n] ++ body ++ [a, b] ++ after).length }
          kind n body
      else .frameError p ([kind, tag, n] ++ body ++ [a, b] ++ after).length .corrupt := by
  simp [frameCommand, ← h]

end Sys2Proof
end

