-- ==== Sys2Proof/Laws/State.lean ====
section
/-! SUPPORT. One lemma per field per update of the state: what the named update leaves is the field as it was, what it writes is the new value. No later proof unfolds a record update. -/

namespace Sys2Proof.Machine

variable (s : State)

/-! ## updStation -/

@[simp] theorem updStation_tb (k : Slot) (f : Station → Station) :
    (updStation k f s).tb = s.tb := rfl
@[simp] theorem updStation_stations (k : Slot) (f : Station → Station) :
    (updStation k f s).stations = put s.stations k (f s.stations[k]) := rfl
@[simp] theorem updStation_sweep (k : Slot) (f : Station → Station) :
    (updStation k f s).sweep = s.sweep := rfl
@[simp] theorem updStation_silenceClock (k : Slot) (f : Station → Station) :
    (updStation k f s).silenceClock = s.silenceClock := rfl
@[simp] theorem updStation_pool (k : Slot) (f : Station → Station) :
    (updStation k f s).pool = s.pool := rfl
@[simp] theorem updStation_ring (k : Slot) (f : Station → Station) :
    (updStation k f s).ring = s.ring := rfl
@[simp] theorem updStation_retime (k : Slot) (f : Station → Station) :
    (updStation k f s).retime = s.retime := rfl
@[simp] theorem updStation_groups (k : Slot) (f : Station → Station) :
    (updStation k f s).groups = s.groups := rfl
@[simp] theorem updStation_sup (k : Slot) (f : Station → Station) :
    (updStation k f s).sup = s.sup := rfl
@[simp] theorem updStation_ports (k : Slot) (f : Station → Station) :
    (updStation k f s).ports = s.ports := rfl
@[simp] theorem updStation_sched (k : Slot) (f : Station → Station) :
    (updStation k f s).sched = s.sched := rfl
@[simp] theorem updStation_notices (k : Slot) (f : Station → Station) :
    (updStation k f s).notices = s.notices := rfl
@[simp] theorem updStation_sealMade (k : Slot) (f : Station → Station) :
    (updStation k f s).sealMade = s.sealMade := rfl
@[simp] theorem updStation_pending (k : Slot) (f : Station → Station) :
    (updStation k f s).pending = s.pending := rfl

/-! ## updClk -/

@[simp] theorem updClk_tb (k : Slot) (f : ClockHalf → ClockHalf) : (updClk k f s).tb = s.tb := rfl
@[simp] theorem updClk_stations (k : Slot) (f : ClockHalf → ClockHalf) :
    (updClk k f s).stations =
      put s.stations k { s.stations[k] with clk := f s.stations[k].clk } := rfl
@[simp] theorem updClk_sweep (k : Slot) (f : ClockHalf → ClockHalf) :
    (updClk k f s).sweep = s.sweep := rfl
@[simp] theorem updClk_silenceClock (k : Slot) (f : ClockHalf → ClockHalf) :
    (updClk k f s).silenceClock = s.silenceClock := rfl
@[simp] theorem updClk_pool (k : Slot) (f : ClockHalf → ClockHalf) :
    (updClk k f s).pool = s.pool := rfl
@[simp] theorem updClk_ring (k : Slot) (f : ClockHalf → ClockHalf) :
    (updClk k f s).ring = s.ring := rfl
@[simp] theorem updClk_retime (k : Slot) (f : ClockHalf → ClockHalf) :
    (updClk k f s).retime = s.retime := rfl
@[simp] theorem updClk_groups (k : Slot) (f : ClockHalf → ClockHalf) :
    (updClk k f s).groups = s.groups := rfl
@[simp] theorem updClk_sup (k : Slot) (f : ClockHalf → ClockHalf) :
    (updClk k f s).sup = s.sup := rfl
@[simp] theorem updClk_ports (k : Slot) (f : ClockHalf → ClockHalf) :
    (updClk k f s).ports = s.ports := rfl
@[simp] theorem updClk_sched (k : Slot) (f : ClockHalf → ClockHalf) :
    (updClk k f s).sched = s.sched := rfl
@[simp] theorem updClk_notices (k : Slot) (f : ClockHalf → ClockHalf) :
    (updClk k f s).notices = s.notices := rfl
@[simp] theorem updClk_sealMade (k : Slot) (f : ClockHalf → ClockHalf) :
    (updClk k f s).sealMade = s.sealMade := rfl
@[simp] theorem updClk_pending (k : Slot) (f : ClockHalf → ClockHalf) :
    (updClk k f s).pending = s.pending := rfl

/-! ## updSeq -/

@[simp] theorem updSeq_tb (k : Slot) (f : SeqHalf → SeqHalf) : (updSeq k f s).tb = s.tb := rfl
@[simp] theorem updSeq_stations (k : Slot) (f : SeqHalf → SeqHalf) :
    (updSeq k f s).stations =
      put s.stations k { s.stations[k] with sq := f s.stations[k].sq } := rfl
@[simp] theorem updSeq_sweep (k : Slot) (f : SeqHalf → SeqHalf) :
    (updSeq k f s).sweep = s.sweep := rfl
@[simp] theorem updSeq_silenceClock (k : Slot) (f : SeqHalf → SeqHalf) :
    (updSeq k f s).silenceClock = s.silenceClock := rfl
@[simp] theorem updSeq_pool (k : Slot) (f : SeqHalf → SeqHalf) : (updSeq k f s).pool = s.pool := rfl
@[simp] theorem updSeq_ring (k : Slot) (f : SeqHalf → SeqHalf) : (updSeq k f s).ring = s.ring := rfl
@[simp] theorem updSeq_retime (k : Slot) (f : SeqHalf → SeqHalf) :
    (updSeq k f s).retime = s.retime := rfl
@[simp] theorem updSeq_groups (k : Slot) (f : SeqHalf → SeqHalf) :
    (updSeq k f s).groups = s.groups := rfl
@[simp] theorem updSeq_sup (k : Slot) (f : SeqHalf → SeqHalf) : (updSeq k f s).sup = s.sup := rfl
@[simp] theorem updSeq_ports (k : Slot) (f : SeqHalf → SeqHalf) :
    (updSeq k f s).ports = s.ports := rfl
@[simp] theorem updSeq_sched (k : Slot) (f : SeqHalf → SeqHalf) :
    (updSeq k f s).sched = s.sched := rfl
@[simp] theorem updSeq_notices (k : Slot) (f : SeqHalf → SeqHalf) :
    (updSeq k f s).notices = s.notices := rfl
@[simp] theorem updSeq_sealMade (k : Slot) (f : SeqHalf → SeqHalf) :
    (updSeq k f s).sealMade = s.sealMade := rfl
@[simp] theorem updSeq_pending (k : Slot) (f : SeqHalf → SeqHalf) :
    (updSeq k f s).pending = s.pending := rfl

/-! ## updPort -/

@[simp] theorem updPort_tb (p : PortId) (f : PortState → PortState) :
    (updPort p f s).tb = s.tb := rfl
@[simp] theorem updPort_stations (p : PortId) (f : PortState → PortState) :
    (updPort p f s).stations = s.stations := rfl
@[simp] theorem updPort_sweep (p : PortId) (f : PortState → PortState) :
    (updPort p f s).sweep = s.sweep := rfl
@[simp] theorem updPort_silenceClock (p : PortId) (f : PortState → PortState) :
    (updPort p f s).silenceClock = s.silenceClock := rfl
@[simp] theorem updPort_pool (p : PortId) (f : PortState → PortState) :
    (updPort p f s).pool = s.pool := rfl
@[simp] theorem updPort_ring (p : PortId) (f : PortState → PortState) :
    (updPort p f s).ring = s.ring := rfl
@[simp] theorem updPort_retime (p : PortId) (f : PortState → PortState) :
    (updPort p f s).retime = s.retime := rfl
@[simp] theorem updPort_groups (p : PortId) (f : PortState → PortState) :
    (updPort p f s).groups = s.groups := rfl
@[simp] theorem updPort_sup (p : PortId) (f : PortState → PortState) :
    (updPort p f s).sup = s.sup := rfl
@[simp] theorem updPort_ports (p : PortId) (f : PortState → PortState) :
    (updPort p f s).ports = put s.ports p (f s.ports[p]) := rfl
@[simp] theorem updPort_sched (p : PortId) (f : PortState → PortState) :
    (updPort p f s).sched = s.sched := rfl
@[simp] theorem updPort_notices (p : PortId) (f : PortState → PortState) :
    (updPort p f s).notices = s.notices := rfl
@[simp] theorem updPort_sealMade (p : PortId) (f : PortState → PortState) :
    (updPort p f s).sealMade = s.sealMade := rfl
@[simp] theorem updPort_pending (p : PortId) (f : PortState → PortState) :
    (updPort p f s).pending = s.pending := rfl

/-! ## updGroup -/

@[simp] theorem updGroup_tb (g : GroupId) (f : Group → Group) : (updGroup g f s).tb = s.tb := rfl
@[simp] theorem updGroup_stations (g : GroupId) (f : Group → Group) :
    (updGroup g f s).stations = s.stations := rfl
@[simp] theorem updGroup_sweep (g : GroupId) (f : Group → Group) :
    (updGroup g f s).sweep = s.sweep := rfl
@[simp] theorem updGroup_silenceClock (g : GroupId) (f : Group → Group) :
    (updGroup g f s).silenceClock = s.silenceClock := rfl
@[simp] theorem updGroup_pool (g : GroupId) (f : Group → Group) :
    (updGroup g f s).pool = s.pool := rfl
@[simp] theorem updGroup_ring (g : GroupId) (f : Group → Group) :
    (updGroup g f s).ring = s.ring := rfl
@[simp] theorem updGroup_retime (g : GroupId) (f : Group → Group) :
    (updGroup g f s).retime = s.retime := rfl
@[simp] theorem updGroup_groups (g : GroupId) (f : Group → Group) :
    (updGroup g f s).groups = put s.groups g (f s.groups[g]) := rfl
@[simp] theorem updGroup_sup (g : GroupId) (f : Group → Group) : (updGroup g f s).sup = s.sup := rfl
@[simp] theorem updGroup_ports (g : GroupId) (f : Group → Group) :
    (updGroup g f s).ports = s.ports := rfl
@[simp] theorem updGroup_sched (g : GroupId) (f : Group → Group) :
    (updGroup g f s).sched = s.sched := rfl
@[simp] theorem updGroup_notices (g : GroupId) (f : Group → Group) :
    (updGroup g f s).notices = s.notices := rfl
@[simp] theorem updGroup_sealMade (g : GroupId) (f : Group → Group) :
    (updGroup g f s).sealMade = s.sealMade := rfl
@[simp] theorem updGroup_pending (g : GroupId) (f : Group → Group) :
    (updGroup g f s).pending = s.pending := rfl

/-! ## updRing -/

@[simp] theorem updRing_tb (f : Ring → Ring) : (updRing f s).tb = s.tb := rfl
@[simp] theorem updRing_stations (f : Ring → Ring) : (updRing f s).stations = s.stations := rfl
@[simp] theorem updRing_sweep (f : Ring → Ring) : (updRing f s).sweep = s.sweep := rfl
@[simp] theorem updRing_silenceClock (f : Ring → Ring) :
    (updRing f s).silenceClock = s.silenceClock := rfl
@[simp] theorem updRing_pool (f : Ring → Ring) : (updRing f s).pool = s.pool := rfl
@[simp] theorem updRing_ring (f : Ring → Ring) : (updRing f s).ring = f s.ring := rfl
@[simp] theorem updRing_retime (f : Ring → Ring) : (updRing f s).retime = s.retime := rfl
@[simp] theorem updRing_groups (f : Ring → Ring) : (updRing f s).groups = s.groups := rfl
@[simp] theorem updRing_sup (f : Ring → Ring) : (updRing f s).sup = s.sup := rfl
@[simp] theorem updRing_ports (f : Ring → Ring) : (updRing f s).ports = s.ports := rfl
@[simp] theorem updRing_sched (f : Ring → Ring) : (updRing f s).sched = s.sched := rfl
@[simp] theorem updRing_notices (f : Ring → Ring) : (updRing f s).notices = s.notices := rfl
@[simp] theorem updRing_sealMade (f : Ring → Ring) : (updRing f s).sealMade = s.sealMade := rfl
@[simp] theorem updRing_pending (f : Ring → Ring) : (updRing f s).pending = s.pending := rfl

/-! ## updRecords -/

@[simp] theorem updRecords_tb (f : Record → Record) : (updRecords f s).tb = s.tb := rfl
@[simp] theorem updRecords_stations (f : Record → Record) :
    (updRecords f s).stations = s.stations := rfl
@[simp] theorem updRecords_sweep (f : Record → Record) : (updRecords f s).sweep = s.sweep := rfl
@[simp] theorem updRecords_silenceClock (f : Record → Record) :
    (updRecords f s).silenceClock = s.silenceClock := rfl
@[simp] theorem updRecords_pool (f : Record → Record) : (updRecords f s).pool = s.pool := rfl
@[simp] theorem updRecords_ring (f : Record → Record) :
    (updRecords f s).ring = { s.ring with records := s.ring.records.map f } := rfl
@[simp] theorem updRecords_retime (f : Record → Record) : (updRecords f s).retime = s.retime := rfl
@[simp] theorem updRecords_groups (f : Record → Record) : (updRecords f s).groups = s.groups := rfl
@[simp] theorem updRecords_sup (f : Record → Record) : (updRecords f s).sup = s.sup := rfl
@[simp] theorem updRecords_ports (f : Record → Record) : (updRecords f s).ports = s.ports := rfl
@[simp] theorem updRecords_sched (f : Record → Record) : (updRecords f s).sched = s.sched := rfl
@[simp] theorem updRecords_notices (f : Record → Record) :
    (updRecords f s).notices = s.notices := rfl
@[simp] theorem updRecords_sealMade (f : Record → Record) :
    (updRecords f s).sealMade = s.sealMade := rfl
@[simp] theorem updRecords_pending (f : Record → Record) :
    (updRecords f s).pending = s.pending := rfl

/-! ## updRecord -/

@[simp] theorem updRecord_tb (n : Nat) (f : Record → Record) : (updRecord n f s).tb = s.tb := rfl
@[simp] theorem updRecord_stations (n : Nat) (f : Record → Record) :
    (updRecord n f s).stations = s.stations := rfl
@[simp] theorem updRecord_sweep (n : Nat) (f : Record → Record) :
    (updRecord n f s).sweep = s.sweep := rfl
@[simp] theorem updRecord_silenceClock (n : Nat) (f : Record → Record) :
    (updRecord n f s).silenceClock = s.silenceClock := rfl
@[simp] theorem updRecord_pool (n : Nat) (f : Record → Record) :
    (updRecord n f s).pool = s.pool := rfl
@[simp] theorem updRecord_ring (n : Nat) (f : Record → Record) :
    (updRecord n f s).ring =
      { s.ring with records := s.ring.records.map fun r => if r.epoch = n then f r else r } := rfl
@[simp] theorem updRecord_retime (n : Nat) (f : Record → Record) :
    (updRecord n f s).retime = s.retime := rfl
@[simp] theorem updRecord_groups (n : Nat) (f : Record → Record) :
    (updRecord n f s).groups = s.groups := rfl
@[simp] theorem updRecord_sup (n : Nat) (f : Record → Record) : (updRecord n f s).sup = s.sup := rfl
@[simp] theorem updRecord_ports (n : Nat) (f : Record → Record) :
    (updRecord n f s).ports = s.ports := rfl
@[simp] theorem updRecord_sched (n : Nat) (f : Record → Record) :
    (updRecord n f s).sched = s.sched := rfl
@[simp] theorem updRecord_notices (n : Nat) (f : Record → Record) :
    (updRecord n f s).notices = s.notices := rfl
@[simp] theorem updRecord_sealMade (n : Nat) (f : Record → Record) :
    (updRecord n f s).sealMade = s.sealMade := rfl
@[simp] theorem updRecord_pending (n : Nat) (f : Record → Record) :
    (updRecord n f s).pending = s.pending := rfl

/-! ## updPool -/

@[simp] theorem updPool_tb (f : Pool → Pool) : (updPool f s).tb = s.tb := rfl
@[simp] theorem updPool_stations (f : Pool → Pool) : (updPool f s).stations = s.stations := rfl
@[simp] theorem updPool_sweep (f : Pool → Pool) : (updPool f s).sweep = s.sweep := rfl
@[simp] theorem updPool_silenceClock (f : Pool → Pool) :
    (updPool f s).silenceClock = s.silenceClock := rfl
@[simp] theorem updPool_pool (f : Pool → Pool) : (updPool f s).pool = f s.pool := rfl
@[simp] theorem updPool_ring (f : Pool → Pool) : (updPool f s).ring = s.ring := rfl
@[simp] theorem updPool_retime (f : Pool → Pool) : (updPool f s).retime = s.retime := rfl
@[simp] theorem updPool_groups (f : Pool → Pool) : (updPool f s).groups = s.groups := rfl
@[simp] theorem updPool_sup (f : Pool → Pool) : (updPool f s).sup = s.sup := rfl
@[simp] theorem updPool_ports (f : Pool → Pool) : (updPool f s).ports = s.ports := rfl
@[simp] theorem updPool_sched (f : Pool → Pool) : (updPool f s).sched = s.sched := rfl
@[simp] theorem updPool_notices (f : Pool → Pool) : (updPool f s).notices = s.notices := rfl
@[simp] theorem updPool_sealMade (f : Pool → Pool) : (updPool f s).sealMade = s.sealMade := rfl
@[simp] theorem updPool_pending (f : Pool → Pool) : (updPool f s).pending = s.pending := rfl

/-! ## updBlock -/

@[simp] theorem updBlock_tb (i : Nat) (f : Block → Block) : (updBlock i f s).tb = s.tb := rfl
@[simp] theorem updBlock_stations (i : Nat) (f : Block → Block) :
    (updBlock i f s).stations = s.stations := rfl
@[simp] theorem updBlock_sweep (i : Nat) (f : Block → Block) :
    (updBlock i f s).sweep = s.sweep := rfl
@[simp] theorem updBlock_silenceClock (i : Nat) (f : Block → Block) :
    (updBlock i f s).silenceClock = s.silenceClock := rfl
@[simp] theorem updBlock_pool (i : Nat) (f : Block → Block) :
    (updBlock i f s).pool = s.pool.upd i f := rfl
@[simp] theorem updBlock_ring (i : Nat) (f : Block → Block) : (updBlock i f s).ring = s.ring := rfl
@[simp] theorem updBlock_retime (i : Nat) (f : Block → Block) :
    (updBlock i f s).retime = s.retime := rfl
@[simp] theorem updBlock_groups (i : Nat) (f : Block → Block) :
    (updBlock i f s).groups = s.groups := rfl
@[simp] theorem updBlock_sup (i : Nat) (f : Block → Block) : (updBlock i f s).sup = s.sup := rfl
@[simp] theorem updBlock_ports (i : Nat) (f : Block → Block) :
    (updBlock i f s).ports = s.ports := rfl
@[simp] theorem updBlock_sched (i : Nat) (f : Block → Block) :
    (updBlock i f s).sched = s.sched := rfl
@[simp] theorem updBlock_notices (i : Nat) (f : Block → Block) :
    (updBlock i f s).notices = s.notices := rfl
@[simp] theorem updBlock_sealMade (i : Nat) (f : Block → Block) :
    (updBlock i f s).sealMade = s.sealMade := rfl
@[simp] theorem updBlock_pending (i : Nat) (f : Block → Block) :
    (updBlock i f s).pending = s.pending := rfl

/-! ## freeBlocks -/

@[simp] theorem freeBlocks_tb (l : List Nat) : (freeBlocks l s).tb = s.tb := rfl
@[simp] theorem freeBlocks_stations (l : List Nat) : (freeBlocks l s).stations = s.stations := rfl
@[simp] theorem freeBlocks_sweep (l : List Nat) : (freeBlocks l s).sweep = s.sweep := rfl
@[simp] theorem freeBlocks_silenceClock (l : List Nat) :
    (freeBlocks l s).silenceClock = s.silenceClock := rfl
@[simp] theorem freeBlocks_pool (l : List Nat) :
    (freeBlocks l s).pool = l.foldl Pool.free s.pool := rfl
@[simp] theorem freeBlocks_ring (l : List Nat) : (freeBlocks l s).ring = s.ring := rfl
@[simp] theorem freeBlocks_retime (l : List Nat) : (freeBlocks l s).retime = s.retime := rfl
@[simp] theorem freeBlocks_groups (l : List Nat) : (freeBlocks l s).groups = s.groups := rfl
@[simp] theorem freeBlocks_sup (l : List Nat) : (freeBlocks l s).sup = s.sup := rfl
@[simp] theorem freeBlocks_ports (l : List Nat) : (freeBlocks l s).ports = s.ports := rfl
@[simp] theorem freeBlocks_sched (l : List Nat) : (freeBlocks l s).sched = s.sched := rfl
@[simp] theorem freeBlocks_notices (l : List Nat) : (freeBlocks l s).notices = s.notices := rfl
@[simp] theorem freeBlocks_sealMade (l : List Nat) : (freeBlocks l s).sealMade = s.sealMade := rfl
@[simp] theorem freeBlocks_pending (l : List Nat) : (freeBlocks l s).pending = s.pending := rfl

/-! ## updSup -/

@[simp] theorem updSup_tb (f : Supervision → Supervision) : (updSup f s).tb = s.tb := rfl
@[simp] theorem updSup_stations (f : Supervision → Supervision) :
    (updSup f s).stations = s.stations := rfl
@[simp] theorem updSup_sweep (f : Supervision → Supervision) : (updSup f s).sweep = s.sweep := rfl
@[simp] theorem updSup_silenceClock (f : Supervision → Supervision) :
    (updSup f s).silenceClock = s.silenceClock := rfl
@[simp] theorem updSup_pool (f : Supervision → Supervision) : (updSup f s).pool = s.pool := rfl
@[simp] theorem updSup_ring (f : Supervision → Supervision) : (updSup f s).ring = s.ring := rfl
@[simp] theorem updSup_retime (f : Supervision → Supervision) :
    (updSup f s).retime = s.retime := rfl
@[simp] theorem updSup_groups (f : Supervision → Supervision) :
    (updSup f s).groups = s.groups := rfl
@[simp] theorem updSup_sup (f : Supervision → Supervision) : (updSup f s).sup = f s.sup := rfl
@[simp] theorem updSup_ports (f : Supervision → Supervision) : (updSup f s).ports = s.ports := rfl
@[simp] theorem updSup_sched (f : Supervision → Supervision) : (updSup f s).sched = s.sched := rfl
@[simp] theorem updSup_notices (f : Supervision → Supervision) :
    (updSup f s).notices = s.notices := rfl
@[simp] theorem updSup_sealMade (f : Supervision → Supervision) :
    (updSup f s).sealMade = s.sealMade := rfl
@[simp] theorem updSup_pending (f : Supervision → Supervision) :
    (updSup f s).pending = s.pending := rfl

/-! ## updTb -/

@[simp] theorem updTb_tb (f : TimeBase → TimeBase) : (updTb f s).tb = f s.tb := rfl
@[simp] theorem updTb_stations (f : TimeBase → TimeBase) : (updTb f s).stations = s.stations := rfl
@[simp] theorem updTb_sweep (f : TimeBase → TimeBase) : (updTb f s).sweep = s.sweep := rfl
@[simp] theorem updTb_silenceClock (f : TimeBase → TimeBase) :
    (updTb f s).silenceClock = s.silenceClock := rfl
@[simp] theorem updTb_pool (f : TimeBase → TimeBase) : (updTb f s).pool = s.pool := rfl
@[simp] theorem updTb_ring (f : TimeBase → TimeBase) : (updTb f s).ring = s.ring := rfl
@[simp] theorem updTb_retime (f : TimeBase → TimeBase) : (updTb f s).retime = s.retime := rfl
@[simp] theorem updTb_groups (f : TimeBase → TimeBase) : (updTb f s).groups = s.groups := rfl
@[simp] theorem updTb_sup (f : TimeBase → TimeBase) : (updTb f s).sup = s.sup := rfl
@[simp] theorem updTb_ports (f : TimeBase → TimeBase) : (updTb f s).ports = s.ports := rfl
@[simp] theorem updTb_sched (f : TimeBase → TimeBase) : (updTb f s).sched = s.sched := rfl
@[simp] theorem updTb_notices (f : TimeBase → TimeBase) : (updTb f s).notices = s.notices := rfl
@[simp] theorem updTb_sealMade (f : TimeBase → TimeBase) : (updTb f s).sealMade = s.sealMade := rfl
@[simp] theorem updTb_pending (f : TimeBase → TimeBase) : (updTb f s).pending = s.pending := rfl

/-! ## raiseIf -/

@[simp] theorem raiseIf_tb (sel : PortId → Bool) (c : Cause) : (raiseIf sel c s).tb = s.tb := rfl
@[simp] theorem raiseIf_stations (sel : PortId → Bool) (c : Cause) :
    (raiseIf sel c s).stations = s.stations := rfl
@[simp] theorem raiseIf_sweep (sel : PortId → Bool) (c : Cause) :
    (raiseIf sel c s).sweep = s.sweep := rfl
@[simp] theorem raiseIf_silenceClock (sel : PortId → Bool) (c : Cause) :
    (raiseIf sel c s).silenceClock = s.silenceClock := rfl
@[simp] theorem raiseIf_pool (sel : PortId → Bool) (c : Cause) :
    (raiseIf sel c s).pool = s.pool := rfl
@[simp] theorem raiseIf_ring (sel : PortId → Bool) (c : Cause) :
    (raiseIf sel c s).ring = s.ring := rfl
@[simp] theorem raiseIf_retime (sel : PortId → Bool) (c : Cause) :
    (raiseIf sel c s).retime = s.retime := rfl
@[simp] theorem raiseIf_groups (sel : PortId → Bool) (c : Cause) :
    (raiseIf sel c s).groups = s.groups := rfl
@[simp] theorem raiseIf_sup (sel : PortId → Bool) (c : Cause) : (raiseIf sel c s).sup = s.sup := rfl
@[simp] theorem raiseIf_ports (sel : PortId → Bool) (c : Cause) :
    (raiseIf sel c s).ports = imap (fun p ps => if sel p then ps.raise c else ps) s.ports := rfl
@[simp] theorem raiseIf_sched (sel : PortId → Bool) (c : Cause) :
    (raiseIf sel c s).sched = s.sched := rfl
@[simp] theorem raiseIf_notices (sel : PortId → Bool) (c : Cause) :
    (raiseIf sel c s).notices = s.notices := rfl
@[simp] theorem raiseIf_sealMade (sel : PortId → Bool) (c : Cause) :
    (raiseIf sel c s).sealMade = s.sealMade := rfl
@[simp] theorem raiseIf_pending (sel : PortId → Bool) (c : Cause) :
    (raiseIf sel c s).pending = s.pending := rfl

/-! ## refreshStalls -/

@[simp] theorem refreshStalls_tb (sel : GroupId → Group → Bool) :
    (refreshStalls sel s).tb = s.tb := rfl
@[simp] theorem refreshStalls_stations (sel : GroupId → Group → Bool) :
    (refreshStalls sel s).stations = s.stations := rfl
@[simp] theorem refreshStalls_sweep (sel : GroupId → Group → Bool) :
    (refreshStalls sel s).sweep = s.sweep := rfl
@[simp] theorem refreshStalls_silenceClock (sel : GroupId → Group → Bool) :
    (refreshStalls sel s).silenceClock = s.silenceClock := rfl
@[simp] theorem refreshStalls_pool (sel : GroupId → Group → Bool) :
    (refreshStalls sel s).pool = s.pool := rfl
@[simp] theorem refreshStalls_ring (sel : GroupId → Group → Bool) :
    (refreshStalls sel s).ring = s.ring := rfl
@[simp] theorem refreshStalls_retime (sel : GroupId → Group → Bool) :
    (refreshStalls sel s).retime = s.retime := rfl
@[simp] theorem refreshStalls_groups (sel : GroupId → Group → Bool) :
    (refreshStalls sel s).groups =
      imap (fun g gr => if sel g gr then { gr with stall := stallDeadline gr s } else gr) s.groups := rfl
@[simp] theorem refreshStalls_sup (sel : GroupId → Group → Bool) :
    (refreshStalls sel s).sup = s.sup := rfl
@[simp] theorem refreshStalls_ports (sel : GroupId → Group → Bool) :
    (refreshStalls sel s).ports = s.ports := rfl
@[simp] theorem refreshStalls_sched (sel : GroupId → Group → Bool) :
    (refreshStalls sel s).sched = s.sched := rfl
@[simp] theorem refreshStalls_notices (sel : GroupId → Group → Bool) :
    (refreshStalls sel s).notices = s.notices := rfl
@[simp] theorem refreshStalls_sealMade (sel : GroupId → Group → Bool) :
    (refreshStalls sel s).sealMade = s.sealMade := rfl
@[simp] theorem refreshStalls_pending (sel : GroupId → Group → Bool) :
    (refreshStalls sel s).pending = s.pending := rfl

/-! ## updRunning -/

@[simp] theorem updRunning_tb (f : Running → Running) : (updRunning f s).tb = s.tb := rfl
@[simp] theorem updRunning_stations (f : Running → Running) :
    (updRunning f s).stations = s.stations := rfl
@[simp] theorem updRunning_sweep (f : Running → Running) : (updRunning f s).sweep = s.sweep := rfl
@[simp] theorem updRunning_silenceClock (f : Running → Running) :
    (updRunning f s).silenceClock = s.silenceClock := rfl
@[simp] theorem updRunning_pool (f : Running → Running) : (updRunning f s).pool = s.pool := rfl
@[simp] theorem updRunning_ring (f : Running → Running) : (updRunning f s).ring = s.ring := rfl
@[simp] theorem updRunning_retime (f : Running → Running) :
    (updRunning f s).retime = { s.retime with running := s.retime.running.map f } := rfl
@[simp] theorem updRunning_groups (f : Running → Running) :
    (updRunning f s).groups = s.groups := rfl
@[simp] theorem updRunning_sup (f : Running → Running) : (updRunning f s).sup = s.sup := rfl
@[simp] theorem updRunning_ports (f : Running → Running) : (updRunning f s).ports = s.ports := rfl
@[simp] theorem updRunning_sched (f : Running → Running) : (updRunning f s).sched = s.sched := rfl
@[simp] theorem updRunning_notices (f : Running → Running) :
    (updRunning f s).notices = s.notices := rfl
@[simp] theorem updRunning_sealMade (f : Running → Running) :
    (updRunning f s).sealMade = s.sealMade := rfl
@[simp] theorem updRunning_pending (f : Running → Running) :
    (updRunning f s).pending = s.pending := rfl

end Sys2Proof.Machine
end

