-- ==== Sys2Proof/Laws/Tables.lean ====
section
/-! SUPPORT. Reading a table after a write, and the entries of the state after each named update: the entry written has its new value, every other entry is as it was. -/

namespace Sys2Proof.Machine

/-! ## Tables of fixed size -/

/-- Reading a table after a write, by number. -/
@[simp] theorem put_get_val {α : Type} {n : Nat} (v : Vector α n) (i : Fin n) (x : α) (j : Nat)
    (h : j < n) : (put v i x)[j] = if j = i.val then x else v[j] := by
  simp only [put, Vector.getElem_set]
  by_cases e : i.val = j
  · simp [e]
  · simp [e, Ne.symm e]

/-- Reading a table after a write. -/
theorem put_get {α : Type} {n : Nat} (v : Vector α n) (i j : Fin n) (x : α) :
    (put v i x)[j] = if j = i then x else v[j] := by
  have h := put_get_val v i x j.val j.isLt
  simp only [Fin.getElem_fin, h, Fin.ext_iff]

theorem put_get_self {α : Type} {n : Nat} (v : Vector α n) (i : Fin n) (x : α) :
    (put v i x)[i] = x := by rw [put_get, if_pos rfl]

theorem put_get_other {α : Type} {n : Nat} (v : Vector α n) {i j : Fin n} (x : α) (h : j ≠ i) :
    (put v i x)[j] = v[j] := by rw [put_get, if_neg h]

/-- Reading a table after every entry was replaced, by number. -/
@[simp] theorem imap_get_val {α β : Type} {n : Nat} (f : Fin n → α → β) (v : Vector α n) (j : Nat)
    (h : j < n) : (imap f v)[j] = f ⟨j, h⟩ v[j] := by simp [imap]

theorem imap_get {α β : Type} {n : Nat} (f : Fin n → α → β) (v : Vector α n) (i : Fin n) :
    (imap f v)[i] = f i v[i] := by simp [imap]

/-- Two tables with the same entries are the same. -/
theorem table_ext {α : Type} {n : Nat} {v w : Vector α n} (h : ∀ i : Fin n, v[i] = w[i]) : v = w := by
  apply Vector.ext
  intro i hi
  exact h ⟨i, hi⟩

@[simp] theorem put_put {α : Type} {n : Nat} (v : Vector α n) (i : Fin n) (x y : α) :
    put (put v i x) i y = put v i y := by
  apply table_ext; intro j; simp only [put_get]; split <;> rfl

@[simp] theorem put_same {α : Type} {n : Nat} (v : Vector α n) (i : Fin n) : put v i v[i] = v := by
  apply table_ext; intro j; rw [put_get]; split
  · next h => rw [h]
  · rfl

/-- Writes to two entries commute. -/
theorem put_comm {α : Type} {n : Nat} (v : Vector α n) {i j : Fin n} (x y : α) (h : i ≠ j) :
    put (put v i x) j y = put (put v j y) i x := by
  apply table_ext; intro k
  simp only [put_get]
  by_cases h1 : k = j
  · subst h1
    simp [Ne.symm h]
  · by_cases h2 : k = i
    · subst h2; simp [h1]
    · simp [h1, h2]

/-- A function of every entry applied to a table with one entry written. -/
theorem imap_put {α β : Type} {n : Nat} (f : Fin n → α → β) (v : Vector α n) (i : Fin n) (x : α) :
    imap f (put v i x) = put (imap f v) i (f i x) := by
  apply table_ext; intro j
  simp only [imap_get, put_get]
  split
  · next h => rw [h]
  · rfl

/-! ## Stations -/

@[simp] theorem station_updStation_self (k : Slot) (f : Station → Station) (s : State) :
    station k (updStation k f s) = f (station k s) := by simp [station]

theorem station_updStation_other {j k : Slot} (f : Station → Station) (s : State) (h : j ≠ k) :
    station j (updStation k f s) = station j s := by
  simp only [station, updStation_stations]; exact put_get_other _ _ h

@[simp] theorem station_updClk_self (k : Slot) (f : ClockHalf → ClockHalf) (s : State) :
    station k (updClk k f s) = { station k s with clk := f (station k s).clk } := by simp [station]

theorem station_updClk_other {j k : Slot} (f : ClockHalf → ClockHalf) (s : State) (h : j ≠ k) :
    station j (updClk k f s) = station j s := station_updStation_other _ s h

@[simp] theorem station_updSeq_self (k : Slot) (f : SeqHalf → SeqHalf) (s : State) :
    station k (updSeq k f s) = { station k s with sq := f (station k s).sq } := by simp [station]

theorem station_updSeq_other {j k : Slot} (f : SeqHalf → SeqHalf) (s : State) (h : j ≠ k) :
    station j (updSeq k f s) = station j s := station_updStation_other _ s h

/-- A station is what the station table says: two states with one table have the same stations. -/
theorem station_of_stations {s t : State} (h : t.stations = s.stations) (k : Slot) :
    station k t = station k s := by simp only [station, h]

/-! ## Ports -/

@[simp] theorem port_updPort_self (p : PortId) (f : PortState → PortState) (s : State) :
    port p (updPort p f s) = f (port p s) := by simp [port]

theorem port_updPort_other {q p : PortId} (f : PortState → PortState) (s : State) (h : q ≠ p) :
    port q (updPort p f s) = port q s := by
  simp only [port, updPort_ports]; exact put_get_other _ _ h

/-- A port is what the port table says. -/
theorem port_of_ports {s t : State} (h : t.ports = s.ports) (p : PortId) : port p t = port p s := by
  simp only [port, h]

@[simp] theorem updPort_updPort (p : PortId) (f g : PortState → PortState) (s : State) :
    updPort p g (updPort p f s) = updPort p (fun x => g (f x)) s := by
  simp [updPort]

/-- Updates of two ports commute. -/
theorem updPort_comm {p q : PortId} (f g : PortState → PortState) (s : State) (h : p ≠ q) :
    updPort q g (updPort p f s) = updPort p f (updPort q g s) := by
  have hp : (put s.ports p (f s.ports[p]))[q] = s.ports[q] := put_get_other _ _ (Ne.symm h)
  have hq : (put s.ports q (g s.ports[q]))[p] = s.ports[p] := put_get_other _ _ h
  simp only [updPort, hp, hq]
  rw [put_comm _ _ _ h]

/-! ## Groups -/

@[simp] theorem group_updGroup_self (g : GroupId) (f : Group → Group) (s : State) :
    group g (updGroup g f s) = f (group g s) := by simp [group]

theorem group_updGroup_other {h g : GroupId} (f : Group → Group) (s : State) (e : h ≠ g) :
    group h (updGroup g f s) = group h s := by
  simp only [group, updGroup_groups]; exact put_get_other _ _ e

/-! ## Causes (R172) -/

@[simp] theorem raise_out (p : PortState) (c : Cause) : (p.raise c).out = p.out := rfl
@[simp] theorem raise_reservations (p : PortState) (c : Cause) :
    (p.raise c).reservations = p.reservations := rfl
@[simp] theorem raise_inFlight (p : PortState) (c : Cause) : (p.raise c).inFlight = p.inFlight := rfl
@[simp] theorem raise_halted (p : PortState) (c : Cause) : (p.raise c).halted = p.halted := rfl
@[simp] theorem raise_dropped (p : PortState) (c : Cause) : (p.raise c).dropped = p.dropped := rfl
@[simp] theorem raise_queue (p : PortState) (c : Cause) : (p.raise c).queue = p.queue := rfl
@[simp] theorem raise_urgent (p : PortState) (c : Cause) : (p.raise c).urgent = p.urgent := rfl
@[simp] theorem raise_age (p : PortState) (c : Cause) : (p.raise c).age = p.age := rfl
@[simp] theorem raise_guards (p : PortState) (c : Cause) : (p.raise c).guards = p.guards := rfl
@[simp] theorem raise_overdue (p : PortState) (c : Cause) : (p.raise c).overdue = p.overdue := rfl
@[simp] theorem raise_txn (p : PortState) (c : Cause) : (p.raise c).txn = p.txn := rfl
@[simp] theorem raise_sent (p : PortState) (c : Cause) : (p.raise c).sent = p.sent := rfl

/-- What a raising does to the records of a port: the cause named becomes pending with its count one up, wrapping; every other record stays (R172). -/
theorem raise_cause (p : PortState) (c : Cause) (d : Fin 21) :
    (p.raise c).causes[d] = if d = c.order then p.causes[d].raise else p.causes[d] := by
  have h : (p.raise c).causes = put p.causes c.order p.causes[c.order].raise := rfl
  rw [h, put_get]
  split
  · next e => rw [e]
  · rfl

/-- A raising leaves every mask (R172). -/
theorem raise_mask (p : PortState) (c : Cause) (d : Fin 21) :
    (p.raise c).causes[d].mask = p.causes[d].mask := by
  rw [raise_cause]; split <;> rfl

/-- What a raising does to a port (R172). -/
theorem port_raiseIf (q : PortId) (sel : PortId → Bool) (c : Cause) (s : State) :
    port q (raiseIf sel c s) = if sel q then (port q s).raise c else port q s := by
  simp [port]

/-- A raising changes nothing of a port but its cause records. -/
theorem port_raiseIf_keeps (q : PortId) (sel : PortId → Bool) (c : Cause) (s : State) :
    port q (raiseIf sel c s) = { port q s with causes := (port q (raiseIf sel c s)).causes } := by
  rw [port_raiseIf]; split <;> rfl

/-- A raising commutes with an update that neither reads nor writes the cause records. -/
theorem raiseIf_updPort (sel : PortId → Bool) (c : Cause) (p : PortId) (f : PortState → PortState)
    (h : ∀ x : PortState, f (x.raise c) = (f x).raise c) (s : State) :
    raiseIf sel c (updPort p f s) = updPort p f (raiseIf sel c s) := by
  simp only [raiseIf, updPort]
  congr 1
  rw [imap_put, imap_get]
  congr 1
  split
  · rw [h]
  · rfl

end Sys2Proof.Machine
end

