-- ==== Sys2Proof/Laws/Intake.lean ====
section
/-! SUPPORT. What the intake of a request can do (R159, R162 to R165), said once for the service path, for CONVERT and for the direct requests, and how replies, raisings and grants meet. -/

namespace Sys2Proof.Machine

open Sys2Proof.Safety

/-! ## The release of select -/

@[simp] theorem endTxn_reservations (n : Nat) (p : PortState) :
    (p.endTxn n).reservations = p.reservations := by unfold PortState.endTxn; split <;> rfl
@[simp] theorem endTxn_inFlight (n : Nat) (p : PortState) :
    (p.endTxn n).inFlight = p.inFlight := by unfold PortState.endTxn; split <;> rfl
@[simp] theorem endTxn_halted (n : Nat) (p : PortState) :
    (p.endTxn n).halted = p.halted := by unfold PortState.endTxn; split <;> rfl
@[simp] theorem endTxn_dropped (n : Nat) (p : PortState) :
    (p.endTxn n).dropped = p.dropped := by unfold PortState.endTxn; split <;> rfl
@[simp] theorem endTxn_queue (n : Nat) (p : PortState) :
    (p.endTxn n).queue = p.queue := by unfold PortState.endTxn; split <;> rfl
@[simp] theorem endTxn_urgent (n : Nat) (p : PortState) :
    (p.endTxn n).urgent = p.urgent := by unfold PortState.endTxn; split <;> rfl
@[simp] theorem endTxn_age (n : Nat) (p : PortState) :
    (p.endTxn n).age = p.age := by unfold PortState.endTxn; split <;> rfl
@[simp] theorem endTxn_guards (n : Nat) (p : PortState) :
    (p.endTxn n).guards = p.guards := by unfold PortState.endTxn; split <;> rfl
@[simp] theorem endTxn_overdue (n : Nat) (p : PortState) :
    (p.endTxn n).overdue = p.overdue := by unfold PortState.endTxn; split <;> rfl
@[simp] theorem endTxn_causes (n : Nat) (p : PortState) :
    (p.endTxn n).causes = p.causes := by unfold PortState.endTxn; split <;> rfl
@[simp] theorem endTxn_txn (n : Nat) (p : PortState) : (p.endTxn n).txn = none := by
  unfold PortState.endTxn; split
  · rfl
  · next h => exact h

/-- What CPn_SDO carried is kept at the release (R159, R177, log 27): the frame as far as it was clocked, then bytes of 0. -/
theorem endTxn_sent (n : Nat) (p : PortState) : (p.endTxn n).sent =
    match p.txn with
    | some t => t.bytes.take n ++ List.replicate (n - t.bytes.length) 0
    | none => p.sent := by
  unfold PortState.endTxn
  cases p.txn <;> rfl

/-- The release shortens the outbound queue by at most its oldest frame (R159). -/
theorem endTxn_out (n : Nat) (p : PortState) :
    (p.endTxn n).out = p.out ∨ (p.endTxn n).out = p.out.tail := by
  unfold PortState.endTxn; split
  · simp only; split
    · exact Or.inr rfl
    · exact Or.inl rfl
  · exact Or.inl rfl

/-- A raising and the release of select commute. -/
theorem endTxn_raise (n : Nat) (p : PortState) (c : Cause) :
    (p.raise c).endTxn n = (p.endTxn n).raise c := by
  unfold PortState.endTxn
  simp only [raise_txn]
  split <;> rfl

/-! ## Replies -/

/-- A raising and a reply commute. -/
theorem reply_raiseIf (p : PortId) (tag kind : Byte) (code : Code) (data : List Field)
    (sel : PortId → Bool) (c : Cause) (s : State) :
    reply p tag kind code data (raiseIf sel c s) = raiseIf sel c (reply p tag kind code data s) :=
  (raiseIf_updPort sel c p _ (fun _ => rfl) s).symm

/-- A raising and the answer of a request commute. -/
theorem answered_raiseIf (x : Xfer) (f : OutFrame) (sel : PortId → Bool) (c : Cause) (s : State) :
    answered x f (raiseIf sel c s) = raiseIf sel c (answered x f s) :=
  (raiseIf_updPort sel c x.port _ (fun p => by simp only [endTxn_raise]; rfl) s).symm

/-- A raising and the reservation of a place commute. -/
theorem reserved_raiseIf (x : Xfer) (sel : PortId → Bool) (c : Cause) (s : State) :
    reserved x (raiseIf sel c s) = raiseIf sel c (reserved x s) :=
  (raiseIf_updPort sel c x.port _ (fun p => by simp only [endTxn_raise]; rfl) s).symm

/-- A raising and the answer of a granted request commute. -/
theorem granted_raiseIf (p : PortId) (tag kind : Byte) (code : Code) (data : List Field)
    (sel : PortId → Bool) (c : Cause) (s : State) :
    granted p tag kind code data (raiseIf sel c s) =
      raiseIf sel c (granted p tag kind code data s) :=
  (raiseIf_updPort sel c p _ (fun _ => rfl) s).symm

/-- The reply of an owner that changed nothing. -/
theorem reply_reserved (x : Xfer) (k : Byte) (c : Code) (d : List Field) (s : State) :
    reply x.port x.tag k c d (reserved x s) = answered x (.reply x.tag k c d) s := by
  simp only [reply, reserved, answered, updPort_updPort]
  congr 1
  funext p
  have e := endTxn_reservations x.clocked p
  simp only [PortState.queueReserved, Nat.add_sub_cancel]
  rw [← e]

/-- The reply to a request whose owner left the ports alone: the request is answered, and everything but the ports is as the owner left it. -/
theorem reply_answered {x : Xfer} {k : Byte} {c : Code} {d : List Field} {s t : State}
    (h : t.ports = (reserved x s).ports) :
    reply x.port x.tag k c d t = answered x (.reply x.tag k c d) { t with ports := s.ports } := by
  have e : t = reserved x { t with ports := s.ports } := by
    cases t; cases h; rfl
  rw [← reply_reserved, ← e]

/-- The reply in its reserved place, and one request in flight less (R162, R163). -/
theorem answerGrant_eq (p : PortId) (tag k : Byte) (a : Answer) :
    answerGrant p tag k a = granted p tag k a.code a.data a.st := by
  simp only [answerGrant, reply, granted, updPort_updPort]; rfl

/-! ## The checks (R162, R164) -/

theorem full_eq (p : PortState) : p.full = decide (12 ≤ p.out.length + p.reservations) := rfl

/-- A request that finds a place, at a port that takes it: a place is reserved and intake goes on. -/
theorem takePlace_taken {x : Xfer} {k : Byte} {dh wf : Bool} {go : State → State} {s : State}
    (h : (port x.port s).halted = false ∨ dh = true) (p : HasPlace x s) :
    takePlace x k dh wf go (endTransaction x.port x.clocked s) = go (reserved x s) := by
  have h1 : ((port x.port s).halted && !dh) = false := by rcases h with h | h <;> simp [h]
  have h2 : ((port x.port s).endTxn x.clocked).full = false := by
    rw [full_eq]; exact decide_eq_false (Nat.not_le.mpr p)
  simp [takePlace, endTransaction, h1, h2, reserved]

/-- A request refused HALTED takes a free place (R162). -/
theorem takePlace_halted {x : Xfer} {k : Byte} {wf : Bool} {go : State → State} {s : State}
    (h : (port x.port s).halted = true) (p : HasPlace x s) :
    takePlace x k false wf go (endTransaction x.port x.clocked s) =
      answered x (.reply x.tag k .halted []) s := by
  have h2 : ((port x.port s).endTxn x.clocked).full = false := by
    rw [full_eq]; exact decide_eq_false (Nat.not_le.mpr p)
  simp only [takePlace, endTransaction, port_updPort_self, endTxn_halted, h, h2, Bool.not_false,
    Bool.and_self, if_true, Bool.false_eq_true, if_false, updPort_updPort]
  rfl

/-- A request that finds no free place is discarded, whether the port is HALTED or not (R162). -/
theorem takePlace_discarded {x : Xfer} {k : Byte} {dh : Bool} {go : State → State} {s : State}
    (p : ¬HasPlace x s) :
    takePlace x k dh false go (endTransaction x.port x.clocked s) = discarded x s := by
  have h2 : ((port x.port s).endTxn x.clocked).full = true := by
    rw [full_eq]; exact decide_eq_true (Nat.not_lt.mp p)
  simp only [takePlace, endTransaction, port_updPort_self, endTxn_halted, h2, if_true,
    Bool.not_false, Bool.and_self, updPort_updPort]
  split <;> rfl

/-- The reservation of a place changes nothing but its port. -/
theorem reserved_keeps (x : Xfer) (s : State) :
    { reserved x s with ports := s.ports } = s := rfl

@[simp] theorem port_reserved (x : Xfer) (s : State) :
    port x.port (reserved x s) = { (port x.port s).endTxn x.clocked with
      reservations := (port x.port s).reservations + 1 } := port_updPort_self _ _ _

/-! ## Intake of the three kinds of request -/

/-- A direct request at a port that takes it and has the right: its owner answers it (R165). -/
theorem intakeDirect_taken {x : Xfer} {k : Byte} {need : Need} {dh : Bool}
    {owner : State → Answer} {s : State} (h : (port x.port s).halted = false ∨ dh = true)
    (p : HasPlace x s) (r : (rightsOf x.port s).grants need = true) :
    intakeDirect x k need dh owner s =
      reply x.port x.tag k (owner (reserved x s)).code (owner (reserved x s)).data
        (owner (reserved x s)).st := by
  unfold intakeDirect
  rw [takePlace_taken h p]
  exact if_pos r

/-- A direct request whose port lacks the right (R164). -/
theorem intakeDirect_denied {x : Xfer} {k : Byte} {need : Need} {dh : Bool}
    {owner : State → Answer} {s : State} (h : (port x.port s).halted = false ∨ dh = true)
    (p : HasPlace x s) (r : (rightsOf x.port s).grants need = false) :
    intakeDirect x k need dh owner s = answered x
      (.reply x.tag k (if (rightsOf x.port s).violation = .absorb then .done else .denied) [])
      (raiseWithSup x.port .accessViolation s) := by
  unfold intakeDirect
  rw [takePlace_taken h p]
  have e : (rightsOf x.port (reserved x s)).grants need = false := r
  simp only [checkRight, e, Bool.false_eq_true, if_false]
  unfold raiseWithSup
  rw [reply_raiseIf, answered_raiseIf, reply_reserved]
  rfl

/-- A request for the pending queue that passes every check joins it (R163 to R165). -/
theorem intakeService_taken {x : Xfer} {r : ServiceReq} {s : State} (t : Takes x s)
    (c : HasCredit x s) (g : (rightsOf x.port s).grants (reqClass r).need = true)
    (q : reqClass r ≠ .submit ∨ s.sup.quiesce = .running) :
    intakeService x r s = joinQueue x r (reserved x s) := by
  unfold intakeService
  rw [takePlace_taken (Or.inl t.1) t.2]
  have e1 : ¬(rightsOf x.port (reserved x s)).credit ≤ (port x.port (reserved x s)).inFlight := by
    have c' : (port x.port s).inFlight < (rightsOf x.port (reserved x s)).credit := c
    rw [port_reserved]
    exact Nat.not_le.mpr (by simpa using c')
  have e2 : (rightsOf x.port (reserved x s)).grants (reqClass r).need = true := g
  have e3 : ¬(reqClass r = .submit ∧ (reserved x s).sup.quiesce ≠ .running) := by
    rintro ⟨a, b⟩
    rcases q with q | q
    · exact q a
    · exact b q
  simp only [checkCredit, e1, if_false, checkRight, e2, if_true, checkQuiesce, e3]

end Sys2Proof.Machine
end

