-- ==== Sys2Proof/Laws/Pool.lean ====
section
/-! SUPPORT. What the operations over the Block Pool can do (R54, R55): reading a record after a write, and that every operation keeps the pool's form and its count of 8192 records. -/

namespace Sys2Proof.Machine

/-! ## Association lists with rising keys -/

/-- Reading an association list after a write. -/
@[simp] theorem assocGet_put {α : Type} (l : List (Nat × α)) (i j : Nat) (x : α) :
    assocGet (assocPut l i x) j = if j = i then some x else assocGet l j := by
  induction l with
  | nil =>
    by_cases h : i = j
    · simp [assocPut, assocGet, h]
    · simp [assocPut, assocGet, h, Ne.symm h]
  | cons e l ih =>
    obtain ⟨k, y⟩ := e
    unfold assocPut
    by_cases h1 : i < k
    · simp only [h1, if_true, assocGet]
      by_cases h : i = j
      · simp [h]
      · simp [h, Ne.symm h]
    · by_cases h2 : k = i
      · subst h2
        simp only [h1, if_false, if_true, assocGet]
        by_cases h : k = j
        · simp [h]
        · simp [h, Ne.symm h]
      · simp only [h1, h2, if_false, assocGet, ih]
        by_cases h : k = j
        · subst h; simp [h2]
        · simp [h]

/-- Reading an association list after a removal. -/
@[simp] theorem assocGet_del {α : Type} (l : List (Nat × α)) (i j : Nat) :
    assocGet (assocDel l i) j = if j = i then none else assocGet l j := by
  induction l with
  | nil => simp [assocDel, assocGet]
  | cons e l ih =>
    obtain ⟨k, y⟩ := e
    have ih' : assocGet (List.filter (fun e => e.1 != i) l) j =
      if j = i then none else assocGet l j := ih
    by_cases h : k = i
    · subst h
      simp only [assocDel, List.filter_cons, bne_self_eq_false, Bool.false_eq_true, if_false, ih',
        assocGet]
      by_cases h2 : j = k
      · simp [h2]
      · simp [h2, Ne.symm h2]
    · have hb : (k != i) = true := by simp [h]
      simp only [assocDel, List.filter_cons, hb, if_true, assocGet, ih']
      by_cases h2 : k = j
      · subst h2; simp [h]
      · simp [h2]

/-- A key is absent exactly when no entry has it. -/
theorem assocGet_none {α : Type} (l : List (Nat × α)) (i : Nat) :
    assocGet l i = none ↔ ∀ e ∈ l, e.1 ≠ i := by
  induction l with
  | nil => simp [assocGet]
  | cons e l ih =>
    obtain ⟨k, y⟩ := e
    unfold assocGet
    by_cases h : k = i
    · simp [h]
    · simp [h, ih]

/-- A value read stands in the list. -/
theorem assocGet_mem {α : Type} {l : List (Nat × α)} {i : Nat} {x : α}
    (h : assocGet l i = some x) : (i, x) ∈ l := by
  induction l with
  | nil => simp [assocGet] at h
  | cons e l ih =>
    obtain ⟨k, y⟩ := e
    unfold assocGet at h
    by_cases hk : k = i
    · simp only [hk, if_true, Option.some.injEq] at h; subst h; simp [hk]
    · simp only [hk, if_false] at h; exact List.mem_cons_of_mem _ (ih h)

/-- The keys of a written list: the old ones and the key written. -/
theorem assocPut_keys {α : Type} (l : List (Nat × α)) (i : Nat) (x : α) (n : Nat) :
    n ∈ (assocPut l i x).map (·.1) ↔ n = i ∨ n ∈ l.map (·.1) := by
  induction l with
  | nil => simp [assocPut]
  | cons e l ih =>
    obtain ⟨k, y⟩ := e
    unfold assocPut
    split
    · simp
    · split
      · next h => subst h; simp
      · simp only [List.map_cons, List.mem_cons, ih]
        constructor
        · rintro (h | h | h) <;> simp [h]
        · rintro (h | h | h) <;> simp [h]

/-- A write keeps the keys rising. -/
theorem assocPut_rising {α : Type} {l : List (Nat × α)} (i : Nat) (x : α)
    (h : (l.map (·.1)).Pairwise (· < ·)) : ((assocPut l i x).map (·.1)).Pairwise (· < ·) := by
  induction l with
  | nil => simp [assocPut]
  | cons e l ih =>
    obtain ⟨k, y⟩ := e
    simp only [List.map_cons, List.pairwise_cons] at h
    unfold assocPut
    split
    · next h1 =>
      simp only [List.map_cons, List.pairwise_cons, List.mem_cons]
      refine ⟨?_, h⟩
      rintro a (ha | ha)
      · exact ha ▸ h1
      · exact lt_trans h1 (h.1 a ha)
    · next h1 =>
      split
      · next h2 => subst h2; simp only [List.map_cons, List.pairwise_cons]; exact h
      · next h2 =>
        simp only [List.map_cons, List.pairwise_cons]
        refine ⟨?_, ih h.2⟩
        intro a ha
        rcases (assocPut_keys l i x a).1 ha with rfl | hb
        · omega
        · exact h.1 a hb

/-- A write to a present key keeps the keys as they are. -/
theorem assocPut_keys_present {α : Type} {l : List (Nat × α)} {i : Nat} (x : α)
    (hr : (l.map (·.1)).Pairwise (· < ·)) (h : assocGet l i ≠ none) :
    (assocPut l i x).map (·.1) = l.map (·.1) := by
  induction l with
  | nil => simp [assocGet] at h
  | cons e l ih =>
    obtain ⟨k, y⟩ := e
    simp only [List.map_cons, List.pairwise_cons] at hr
    unfold assocPut
    unfold assocGet at h
    by_cases hk : k = i
    · subst hk; simp
    · simp only [hk, if_false] at h
      have hm : i ∈ l.map (·.1) := by
        cases hg : assocGet l i with
        | none => exact absurd hg h
        | some z => exact List.mem_map_of_mem (assocGet_mem hg)
      have hlt := hr.1 i hm
      have : ¬ i < k := by omega
      simp only [this, hk, if_false, List.map_cons, ih hr.2 h]

/-- A write to an absent key lengthens the list by one. -/
theorem assocPut_length_absent {α : Type} {l : List (Nat × α)} {i : Nat} (x : α)
    (h : assocGet l i = none) : (assocPut l i x).length = l.length + 1 := by
  induction l with
  | nil => simp [assocPut]
  | cons e l ih =>
    obtain ⟨k, y⟩ := e
    unfold assocGet at h
    by_cases hk : k = i
    · simp [hk] at h
    · simp only [hk, if_false] at h
      unfold assocPut
      split
      · simp
      · simp [ih h]

/-- A removal keeps the keys rising. -/
theorem assocDel_rising {α : Type} {l : List (Nat × α)} (i : Nat)
    (h : (l.map (·.1)).Pairwise (· < ·)) : ((assocDel l i).map (·.1)).Pairwise (· < ·) :=
  h.sublist (List.filter_sublist.map _)

/-- A removal of a present key shortens a list with rising keys by one. -/
theorem assocDel_length {α : Type} {l : List (Nat × α)} {i : Nat}
    (hr : (l.map (·.1)).Pairwise (· < ·)) (h : assocGet l i ≠ none) :
    (assocDel l i).length + 1 = l.length := by
  induction l with
  | nil => simp [assocGet] at h
  | cons e l ih =>
    obtain ⟨k, y⟩ := e
    simp only [List.map_cons, List.pairwise_cons] at hr
    unfold assocGet at h
    by_cases hk : k = i
    · subst hk
      have hall : List.filter (fun e : Nat × α => e.1 != k) l = l := by
        rw [List.filter_eq_self]
        intro e he
        have := hr.1 e.1 (List.mem_map_of_mem he)
        simp only [bne_iff_ne, ne_eq]; omega
      simp [assocDel, hall]
    · simp only [hk, if_false] at h
      have hb : (k != i) = true := by simp [hk]
      have := ih hr.2 h
      simp only [assocDel] at this
      simp only [assocDel, List.filter_cons, hb, if_true, List.length_cons]
      omega

/-! ## The form of the pool, clause by clause -/

theorem Pool.wf_iff (p : Pool) : p.wf = true ↔
    (p.used.map (·.1)).Pairwise (· < ·) ∧ p.fresh ≤ Config.poolRecords ∧
      (∀ n ∈ p.used.map (·.1), n < p.fresh) ∧ p.freed.Nodup ∧
      (∀ i ∈ p.freed, i < p.fresh ∧ p.get i = none) ∧
      p.used.length + p.freed.length = p.fresh := by
  simp only [Pool.wf, Bool.and_eq_true, decide_eq_true_eq, List.all_eq_true, Option.isNone_iff_eq_none,
    List.mem_map, forall_exists_index, and_imp, forall_apply_eq_imp_iff₂]
  tauto

/-- The records add up to 8192 (R55). -/
theorem Pool.wf_count {p : Pool} (h : p.wf = true) :
    p.freeCount + p.used.length = Config.poolRecords := by
  obtain ⟨_, hf, _, _, _, hc⟩ := p.wf_iff.1 h
  simp only [Pool.freeCount]; omega

/-! ## Reading a record after an operation -/

@[simp] theorem Pool.get_upd (p : Pool) (i j : Nat) (f : Block → Block) :
    (p.upd i f).get j = if j = i then (p.get i).map f else p.get j := by
  unfold Pool.upd
  cases h : p.get i with
  | none => by_cases hj : j = i <;> simp [hj, h]
  | some b => simp [Pool.get]

@[simp] theorem Pool.get_free (p : Pool) (i j : Nat) :
    (p.free i).get j = if j = i then none else p.get j := by
  unfold Pool.free
  cases h : p.get i with
  | none => by_cases hj : j = i <;> simp [hj, h]
  | some b => simp [Pool.get]

/-- The record taken holds the block, every other record is as it was (R54, R55). -/
theorem Pool.get_take {p : Pool} {i : Nat} (b : Block) (h : p.head = some i) (j : Nat) :
    (p.take b).get j = if j = i then some b else p.get j := by
  unfold Pool.head at h
  unfold Pool.take
  split at h
  · next hf =>
    cases h
    simp only [hf, if_true, Pool.get, assocGet_put]
  · next hf =>
    cases hl : p.freed with
    | nil => rw [hl] at h; cases h
    | cons a l =>
      rw [hl] at h; cases h
      simp only [hf, if_false, Pool.get, assocGet_put]

/-- With no free record, nothing is taken (R55). -/
theorem Pool.take_none {p : Pool} (b : Block) (h : p.head = none) : p.take b = p := by
  unfold Pool.head at h
  unfold Pool.take
  split at h
  · cases h
  · next hf =>
    cases hl : p.freed with
    | nil => simp only [hf, if_false]
    | cons a l => rw [hl] at h; cases h

/-! ## Every operation keeps the form -/

theorem Pool.wf_upd {p : Pool} (i : Nat) (f : Block → Block) (h : p.wf = true) :
    (p.upd i f).wf = true := by
  obtain ⟨hr, hf, hlt, hn, hd, hc⟩ := p.wf_iff.1 h
  cases hg : p.get i with
  | none => rw [show p.upd i f = p by simp only [Pool.upd, hg]]; exact h
  | some b =>
    have hk := assocPut_keys_present (f b) hr (show assocGet p.used i ≠ none by
      rw [show assocGet p.used i = some b from hg]; simp)
    have hl := congrArg List.length hk
    simp only [List.length_map] at hl
    have hu : p.upd i f = { p with used := assocPut p.used i (f b) } := by
      simp only [Pool.upd, hg]
    rw [Pool.wf_iff]
    refine ⟨?_, ?_, ?_, ?_, ?_, ?_⟩
    · rw [hu]; simp only [hk]; exact hr
    · rw [hu]; exact hf
    · rw [hu]; simp only [hk]; exact hlt
    · rw [hu]; exact hn
    · intro j hj
      have hj' : j ∈ p.freed := by rw [hu] at hj; exact hj
      obtain ⟨h1, h2⟩ := hd j hj'
      refine ⟨by rw [hu]; exact h1, ?_⟩
      rw [Pool.get_upd]
      split
      · next e => subst e; simp [h2]
      · exact h2
    · rw [hu]; simp only [hl]; exact hc

theorem Pool.wf_free {p : Pool} (i : Nat) (h : p.wf = true) : (p.free i).wf = true := by
  obtain ⟨hr, hf, hlt, hn, hd, hc⟩ := p.wf_iff.1 h
  cases hg : p.get i with
  | none => rw [show p.free i = p by simp only [Pool.free, hg]]; exact h
  | some b =>
    have hp : assocGet p.used i ≠ none := by
      rw [show assocGet p.used i = some b from hg]; simp
    have hi : i < p.fresh := hlt i (List.mem_map_of_mem (assocGet_mem hg))
    have hu : p.free i = { p with used := assocDel p.used i, freed := p.freed ++ [i] } := by
      simp only [Pool.free, hg]
    have hlen := assocDel_length hr hp
    rw [Pool.wf_iff]
    refine ⟨?_, ?_, ?_, ?_, ?_, ?_⟩
    · rw [hu]; exact assocDel_rising i hr
    · rw [hu]; exact hf
    · intro n hm
      rw [hu] at hm ⊢
      exact hlt n ((List.filter_sublist.map _).subset hm)
    · rw [hu]
      simp only [List.nodup_append, List.nodup_singleton, List.mem_singleton, true_and]
      refine ⟨hn, ?_⟩
      intro a ha b' hb e
      subst hb; subst e
      rw [(hd _ ha).2] at hg; cases hg
    · intro j hj
      rw [Pool.get_free]
      rw [hu] at hj ⊢
      simp only [List.mem_append, List.mem_singleton] at hj
      rcases hj with hj | rfl
      · refine ⟨(hd j hj).1, ?_⟩
        split
        · rfl
        · exact (hd j hj).2
      · exact ⟨hi, by simp⟩
    · rw [hu]; simp only [List.length_append, List.length_singleton]; omega

/-- Records freed in list order. -/
theorem Pool.wf_foldl_free (l : List Nat) {p : Pool} (h : p.wf = true) :
    (l.foldl Pool.free p).wf = true := by
  induction l generalizing p with
  | nil => exact h
  | cons i l ih => exact ih (Pool.wf_free i h)

theorem Pool.wf_take {p : Pool} (b : Block) (h : p.wf = true) : (p.take b).wf = true := by
  obtain ⟨hr, hf, hlt, hn, hd, hc⟩ := p.wf_iff.1 h
  cases hh : p.head with
  | none => rw [Pool.take_none b hh]; exact h
  | some i =>
    have hget := Pool.get_take b hh
    have hi : p.get i = none ∧ i ≤ p.fresh := by
      unfold Pool.head at hh
      split at hh
      · cases hh
        refine ⟨(assocGet_none _ _).2 fun e he => ?_, le_refl _⟩
        have := hlt e.1 (List.mem_map_of_mem he); omega
      · have hm := List.mem_of_head? hh
        exact ⟨(hd i hm).2, le_of_lt (hd i hm).1⟩
    have hlen := assocPut_length_absent b (show assocGet p.used i = none from hi.1)
    rw [Pool.wf_iff]
    unfold Pool.head at hh
    by_cases hfr : p.fresh < Config.poolRecords
    · rw [if_pos hfr] at hh; cases hh
      have hu : p.take b = { p with used := assocPut p.used p.fresh b, fresh := p.fresh + 1 } := by
        simp only [Pool.take, hfr, if_true]
      refine ⟨?_, ?_, ?_, ?_, ?_, ?_⟩
      · rw [hu]; exact assocPut_rising _ _ hr
      · rw [hu]; simp only; omega
      · intro n hm
        rw [hu] at hm ⊢
        rcases (assocPut_keys _ _ _ _).1 hm with rfl | hm
        · simp
        · have := hlt n hm; simp only; omega
      · rw [hu]; exact hn
      · intro j hj
        rw [hget]
        rw [hu] at hj ⊢
        obtain ⟨h1, h2⟩ := hd j hj
        refine ⟨by simp only; omega, ?_⟩
        rw [if_neg (by omega)]; exact h2
      · rw [hu]; simp only; omega
    · rw [if_neg hfr] at hh
      cases hl : p.freed with
      | nil => rw [hl] at hh; cases hh
      | cons a l =>
        rw [hl] at hh; cases hh
        rw [hl] at hn hd hc
        simp only [List.nodup_cons] at hn
        have hu : p.take b = { p with used := assocPut p.used i b, freed := l } := by
          simp only [Pool.take, hfr, if_false, hl]
        refine ⟨?_, ?_, ?_, ?_, ?_, ?_⟩
        · rw [hu]; exact assocPut_rising _ _ hr
        · rw [hu]; exact hf
        · intro n hm
          rw [hu] at hm ⊢
          rcases (assocPut_keys _ _ _ _).1 hm with rfl | hm
          · exact (hd n (by simp)).1
          · exact hlt n hm
        · rw [hu]; exact hn.2
        · intro j hj
          rw [hget]
          rw [hu] at hj ⊢
          obtain ⟨h1, h2⟩ := hd j (List.mem_cons_of_mem _ hj)
          refine ⟨h1, ?_⟩
          rw [if_neg (fun e : j = i => hn.1 (e ▸ hj))]; exact h2
        · rw [hu]; simp only [List.length_cons] at hc ⊢; omega

/-! ## The same for the state -/

theorem freeBlocks_wf (l : List Nat) (s : State) (h : s.pool.wf = true) :
    (freeBlocks l s).pool.wf = true := Pool.wf_foldl_free l h

theorem updBlock_wf (i : Nat) (f : Block → Block) (s : State) (h : s.pool.wf = true) :
    (updBlock i f s).pool.wf = true := Pool.wf_upd i f h

end Sys2Proof.Machine
end

