-- ==== Sys2Proof/Laws/Ring.lean ====
section
/-! SUPPORT. What the Epoch Ring Unit's shared operations can do, said once: a release, a retirement, an eviction, an opening, a seal test and a filing change the ring, the pool, the groups' cursors and stall deadlines, and the causes of the ports, and nothing else; and the stations, the time, supervision and the rest are as they were. -/

namespace Sys2Proof.Machine

open Sys2Proof.Safety

/-! ## What ring events leave alone -/

/-- All that no event of the ring changes: t agrees with s on it. -/
def RingEvent (s t : State) : Prop :=
  t = { s with ring := t.ring, pool := t.pool, groups := t.groups, ports := t.ports
               sealMade := t.sealMade } ∧
  (∀ p : PortId, port p t = { port p s with causes := (port p t).causes }) ∧
  (∀ g : GroupId, group g t =
    { group g s with cursor := (group g t).cursor, stall := (group g t).stall }) ∧
  t.ring = { s.ring with records := t.ring.records, releaseCount := t.ring.releaseCount
                         boundary := t.ring.boundary }

namespace RingEvent

theorem refl (s : State) : RingEvent s s := ⟨rfl, fun _ => rfl, fun _ => rfl, rfl⟩

theorem trans {s t u : State} (a : RingEvent s t) (b : RingEvent t u) : RingEvent s u := by
  refine ⟨?_, fun p => ?_, fun g => ?_, ?_⟩
  · rw [b.1, a.1]
  · rw [b.2.1 p, a.2.1 p]
  · rw [b.2.2.1 g, a.2.2.1 g]
  · rw [b.2.2.2, a.2.2.2]

theorem stations {s t : State} (a : RingEvent s t) : t.stations = s.stations := by rw [a.1]
theorem tb {s t : State} (a : RingEvent s t) : t.tb = s.tb := by rw [a.1]
theorem sup {s t : State} (a : RingEvent s t) : t.sup = s.sup := by rw [a.1]
theorem retime {s t : State} (a : RingEvent s t) : t.retime = s.retime := by rw [a.1]
theorem sched {s t : State} (a : RingEvent s t) : t.sched = s.sched := by rw [a.1]
theorem notices {s t : State} (a : RingEvent s t) : t.notices = s.notices := by rw [a.1]
theorem sweep {s t : State} (a : RingEvent s t) : t.sweep = s.sweep := by rw [a.1]
theorem silenceClock {s t : State} (a : RingEvent s t) : t.silenceClock = s.silenceClock := by
  rw [a.1]
theorem pending {s t : State} (a : RingEvent s t) : t.pending = s.pending := by rw [a.1]
theorem out {s t : State} (a : RingEvent s t) (p : PortId) : (port p t).out = (port p s).out := by
  rw [a.2.1 p]
theorem groupState {s t : State} (a : RingEvent s t) (g : GroupId) :
    (group g t).state = (group g s).state := by rw [a.2.2.1 g]
theorem ringState {s t : State} (a : RingEvent s t) : t.ring.state = s.ring.state := by rw [a.2.2.2]
theorem origin {s t : State} (a : RingEvent s t) : t.ring.origin = s.ring.origin := by rw [a.2.2.2]
theorem base {s t : State} (a : RingEvent s t) : t.ring.base = s.ring.base := by rw [a.2.2.2]
theorem lengthUs {s t : State} (a : RingEvent s t) : t.ring.lengthUs = s.ring.lengthUs := by
  rw [a.2.2.2]; rfl

end RingEvent

/-! ## The parts of ring events -/

theorem ringEvent_updRecords (f : Record → Record) (s : State) : RingEvent s (updRecords f s) :=
  ⟨rfl, fun _ => rfl, fun _ => rfl, rfl⟩

theorem ringEvent_updBlock (i : Nat) (f : Block → Block) (s : State) :
    RingEvent s (updBlock i f s) := ⟨rfl, fun _ => rfl, fun _ => rfl, rfl⟩

theorem ringEvent_sealMade (b : Bool) (s : State) : RingEvent s { s with sealMade := b } :=
  ⟨rfl, fun _ => rfl, fun _ => rfl, rfl⟩

theorem ringEvent_raiseIf (sel : PortId → Bool) (c : Cause) (s : State) :
    RingEvent s (raiseIf sel c s) := by
  refine ⟨rfl, fun p => ?_, fun _ => rfl, rfl⟩
  simp only [port, raiseIf, imap_get]
  split <;> rfl

theorem ringEvent_refreshStalls (sel : GroupId → Group → Bool) (s : State) :
    RingEvent s (refreshStalls sel s) := by
  refine ⟨rfl, fun _ => rfl, fun g => ?_, rfl⟩
  simp only [group, refreshStalls, imap_get]
  split <;> rfl

theorem ringEvent_removeOldest (s : State) : RingEvent s (removeOldest s) := by
  unfold removeOldest
  split
  · exact .refl s
  · exact ⟨rfl, fun _ => rfl, fun _ => rfl, rfl⟩

theorem ringEvent_markReleased (n : Nat) (s : State) : RingEvent s (markReleased n s) :=
  ⟨rfl, fun _ => rfl, fun _ => rfl, rfl⟩

/-! ## The shared operations -/

/-- Release (R112, R113). -/
theorem ringEvent_releaseRecord (n : Nat) (s : State) : RingEvent s (releaseRecord n s) :=
  ((ringEvent_markReleased n s).trans (ringEvent_raiseIf _ _ _)).trans (ringEvent_refreshStalls _ _)

theorem ringEvent_releaseChain (n : Nat) (s : State) : RingEvent s (releaseChain n s) := by
  induction n generalizing s with
  | zero => exact .refl s
  | succ n ih =>
    unfold releaseChain
    split
    · split
      · exact (ringEvent_releaseRecord _ s).trans (ih _)
      · exact .refl s
    · exact .refl s

/-- The releases that a seal sets off (R112). -/
theorem ringEvent_releaseAll (s : State) : RingEvent s (releaseAll s) := ringEvent_releaseChain _ s

theorem ringEvent_retireChain (n : Nat) (s : State) : RingEvent s (retireChain n s) := by
  induction n generalizing s with
  | zero => exact .refl s
  | succ n ih =>
    unfold retireChain
    split
    · split
      · exact (ringEvent_removeOldest s).trans (ih _)
      · exact .refl s
    · exact .refl s

/-- Retirement (R136). -/
theorem ringEvent_retire (s : State) : RingEvent s (retire s) := ringEvent_retireChain _ s

theorem ringEvent_overrun (m : GroupSet) (n : Nat) (s : State) : RingEvent s (overrun m n s) := by
  unfold overrun
  generalize List.finRange 4 = l
  induction l generalizing s with
  | nil => exact .refl s
  | cons g l ih =>
    refine RingEvent.trans ?_ (ih _)
    dsimp only
    split
    · refine RingEvent.trans (t := updGroup g (fun gr => { gr with cursor := some (n + 1) }) s) ?_
        (ringEvent_raiseIf _ _ _)
      refine ⟨rfl, fun _ => rfl, fun h => ?_, rfl⟩
      simp only [group, updGroup, put_get]
      split
      · next e => subst e; rfl
      · rfl
    · exact .refl s

/-- Eviction (R97 to R100). -/
theorem ringEvent_evictOldest (s : State) : RingEvent s (evictOldest s) := by
  unfold evictOldest
  split
  · exact .refl s
  · next r rest h =>
    have e1 : RingEvent s (if r.isOpen then
        { updRecord r.epoch (Record.forceSeal (now s)) s with sealMade := true } else s) := by
      split
      · exact (ringEvent_updRecords _ s).trans (ringEvent_sealMade _ _)
      · exact .refl s
    have e2 (u : State) : RingEvent u (if r.isReleased then u else markReleased r.epoch u) := by
      split
      · exact .refl u
      · exact ringEvent_markReleased _ u
    have e4 (u : State) : RingEvent u (if r.isReleased then u else releaseAll u) := by
      split
      · exact .refl u
      · exact ringEvent_releaseAll u
    exact ((((e1.trans (e2 _)).trans (ringEvent_overrun _ _ _)).trans
      (ringEvent_removeOldest _)).trans (e4 _)).trans (ringEvent_refreshStalls _ _)

/-- The opening of a record (R85). -/
theorem ringEvent_openRecord (n : Nat) (s : State) : RingEvent s (openRecord n s) := by
  have e1 : RingEvent s
      (if Config.ringRecords ≤ s.ring.records.length then evictOldest s else s) := by
    split
    · exact ringEvent_evictOldest s
    · exact .refl s
  refine RingEvent.trans (RingEvent.trans e1 ?_) (ringEvent_retire _)
  exact ⟨rfl, fun _ => rfl, fun _ => rfl, rfl⟩

theorem ringEvent_openNext (s : State) : RingEvent s (openNext s) := by
  unfold openNext
  split
  · split
    · exact ringEvent_openRecord _ s
    · exact .refl s
  · exact .refl s

/-- Openings one after the other are the iterates of one opening (R86, R87). -/
theorem openMany_eq_iterate (n : Nat) (s : State) : openMany n s = openNext^[n] s := by
  induction n generalizing s with
  | zero => rfl
  | succ n ih => exact ih (openNext s)

theorem ringEvent_openMany (n : Nat) (s : State) : RingEvent s (openMany n s) := by
  induction n generalizing s with
  | zero => exact .refl s
  | succ n ih => exact (ringEvent_openNext s).trans (ih _)

theorem ringEvent_openUpTo (e : Nat) (s : State) : RingEvent s (openUpTo e s) := by
  unfold openUpTo
  split
  · exact ringEvent_openMany _ s
  · exact .refl s

/-- A test of the seal condition (R109 to R111). -/
theorem ringEvent_sealTest (sel : Record → Bool) (s : State) : RingEvent s (sealTest sel s) := by
  unfold sealTest
  dsimp only
  split
  · exact (((ringEvent_updRecords _ s).trans (ringEvent_sealMade true _)).trans
      (ringEvent_releaseAll _)).trans (ringEvent_retire _)
  · exact ringEvent_updRecords _ s

/-- The choice of the record that receives a block (R89 to R91). -/
theorem ringEvent_chooseTarget (n : Nat) (s : State) : RingEvent s (chooseTarget n s).1 := by
  have next (c : Prop) [Decidable c] : RingEvent s (if c then s else openNext s) := by
    split
    · exact .refl s
    · exact ringEvent_openNext s
  unfold chooseTarget
  split
  · split
    · unfold ownTarget
      split
      · exact .refl s
      · exact next _
    · split
      · exact ringEvent_openUpTo _ s
      · exact next _
  · exact next _

/-- A filing (R89 to R95, R106): the ring, the pool, cursors, stall deadlines and causes, and nothing else. -/
theorem ringEvent_fileBlock (i : Nat) (b : Block) (s : State) : RingEvent s (fileBlock i b s).1 := by
  have h := ringEvent_chooseTarget (b.netStart.getD 0) s
  unfold fileBlock
  split
  · next u e => rw [e] at h; exact h
  · next u t e =>
    rw [e] at h
    exact (((h.trans (ringEvent_updBlock _ _ _)).trans (ringEvent_updRecords _ _)).trans
      (ringEvent_updRecords _ _)).trans (ringEvent_sealTest _ _)

/-! ## The seal test by the statements' words -/

/-- The terms of the seal condition but the third, in the words of the statements (R109). -/
theorem readyToSeal_iff (r : Record) : r.readyToSeal = true ↔ SealTerms r := by
  have every : (r.entries.toList.all fun e => e.status != .waiting) = true ↔
      ∀ k : Slot, r.entries[k].status ≠ .waiting := by
    simp only [List.all_eq_true, bne_iff_ne]
    constructor
    · intro h k
      exact h _ (by simp [Vector.toList])
    · intro h e he
      obtain ⟨n, hn, rfl⟩ := List.getElem_of_mem he
      rw [Vector.length_toList] at hn
      simpa using h ⟨n, hn⟩
  simp only [Record.readyToSeal, SealTerms, Record.isOpen, Bool.and_eq_true, every, beq_iff_eq,
    bne_iff_ne, and_assoc]
  rfl

/-- The third term, in the words of the statements (R109). -/
theorem heldByRetime_iff (r : Record) (s : State) :
    heldByRetime r s = true ↔ HeldByRetiming s r := by
  simp only [heldByRetime, HeldByRetiming, List.any_eq_true, List.mem_finRange, true_and,
    Bool.and_eq_true]
  refine exists_congr fun k => and_congr_left fun _ => ?_
  cases r.entries[k].status <;> decide

/-- The reason of a seal, in the words of the statements (R110). -/
theorem sealReason_eq (r : Record) : r.sealReason =
    if ∃ k : Slot, r.entries[k].status = .absentTimeout ∨ r.entries[k].status = .absentFlushed then
      .timed else .complete := by
  have h : (r.entries.toList.any fun e =>
      e.status == .absentTimeout || e.status == .absentFlushed) = true ↔
      ∃ k : Slot, r.entries[k].status = .absentTimeout ∨ r.entries[k].status = .absentFlushed := by
    simp only [List.any_eq_true, Bool.or_eq_true, beq_iff_eq]
    constructor
    · rintro ⟨e, he, x⟩
      obtain ⟨n, hn, rfl⟩ := List.getElem_of_mem he
      rw [Vector.length_toList] at hn
      exact ⟨⟨n, hn⟩, by simpa using x⟩
    · rintro ⟨k, x⟩
      exact ⟨r.entries[k], by simp [Vector.toList], x⟩
  unfold Record.sealReason
  by_cases c : ∃ k : Slot,
      r.entries[k].status = .absentTimeout ∨ r.entries[k].status = .absentFlushed
  · rw [if_pos (h.2 c), if_pos c]
  · rw [if_neg (fun x => c (h.1 x)), if_neg c]

/-- One record under the test of R109, in the words of the statements. -/
theorem afterSealTest_eq (s : State) (r : Record) : r.afterSealTest s = sealTested s r := by
  unfold Record.afterSealTest sealTested
  by_cases a : SealTerms r
  · rw [if_pos ((readyToSeal_iff r).2 a), if_pos a]
    by_cases b : HeldByRetiming s r
    · rw [if_pos ((heldByRetime_iff r s).2 b), if_pos b]
    · rw [if_neg (fun x => b ((heldByRetime_iff r s).1 x)), if_neg b, sealReason_eq]
      unfold Record.seal sealedAt
      congr 1
      refine congrArg (fun f => imap f r.zones) ?_
      funext _ w
      unfold ZoneWait.abandon
      cases w.deadline <;> rfl
  · rw [if_neg (fun x => a ((readyToSeal_iff r).1 x)), if_neg a]

/-- The record that an opening appends, in the words of the statements (R85). -/
theorem openedRecord_eq (n : Nat) (s : State) : openedRecord n s = freshRecord s n := by
  have entry (k : Slot) : openedEntry n s k = freshEntry s n k := by
    have mine : ((filedBlocks s).filter fun b => decide (b.slot = k) && s.ring.blockOverlaps b n) =
        (s.pool.used.map (·.2)).filter fun b =>
          decide (b.place ≠ .held) && decide (b.slot = k) && s.ring.blockOverlaps b n := by
      unfold filedBlocks
      rw [List.filter_filter]
      refine List.filter_congr fun b _ => ?_
      cases b.place <;> simp
    unfold openedEntry freshEntry
    rw [mine]
    rfl
  unfold openedRecord freshRecord
  rw [funext entry]

end Sys2Proof.Machine
end

