-- ==== Sys2Proof/Laws/Records.lean ====
section
/-! SUPPORT. What the rules make of one epoch record, said of the model's own operations in the words of the statements: each operation on a record is the record that Safety.lean writes from the rule. -/

namespace Sys2Proof.Machine

open Sys2Proof.Safety

/-! ## Small facts -/

/-- A time that is a sum of numbers, held in range (R9). -/
theorem holdTime_nat (n : Nat) : holdTime (n : Nat) = min n (2 ^ 56 - 1) := by
  simp [holdTime, Config.timeMax]

/-- The start of an epoch in the words of the statements (R9, R10); its end is the start of the next. -/
theorem epochStart_eq (r : Ring) (n : Nat) :
    r.epochStart n = min (r.origin.getD 0 + n * r.lengthUs) (2 ^ 56 - 1) := holdTime_nat _

/-- The limit of the future tolerance in the words of the statements (R9, R63). -/
theorem futureLimit_eq (s : State) : futureLimit s = latestAllowed s := holdTime_nat _

/-- A station time converted with an anchored model, and so the predicted network time of a mark (R20, R30). -/
theorem convert_anchored {c : ClockHalf} {a : Nat} (h : c.anchor = some a) (t : Nat) :
    c.convert t = min (t + c.offset + (((t : Int) - a) * c.drift).tdiv 1000000000).toNat
      (2 ^ 56 - 1) := by
  simp [ClockHalf.convert, holdTime, perBillion, Config.timeMax, h]

theorem put_self {α : Type} {n : Nat} (v : Vector α n) (i : Fin n) : put v i v[i] = v := by
  apply Vector.ext
  intro j h
  rw [put_get_val]
  split
  · next e => subst e; rfl
  · rfl

/-- The deadline that a zone entry gives, in the words of the statements (R103, R106). -/
theorem deadlineFrom_eq (e : ZoneEntry) (stop x : Nat) :
    e.deadlineFrom stop x = deadlineValue e stop x := by
  have add (a b c : Nat) : min (a + b * 1000000 + x * 1000000) (a + c * 1000000) =
      a + min (b + x) c * 1000000 := by omega
  unfold ZoneEntry.deadlineFrom deadlineValue
  cases e.mode with
  | fixed => simp only [holdTime_nat, seconds]
  | adaptive => simp only [holdTime_nat, seconds, add]
  | signalled => simp only [holdTime_nat, seconds]
  | noWait => simp only

/-- Only a NO_WAIT zone has no deadline (R103). -/
theorem deadlineValue_none (e : ZoneEntry) (stop x : Nat) :
    deadlineValue e stop x = none ↔ e.mode = .noWait := by
  unfold deadlineValue
  cases e.mode <;> simp

theorem giveUp_eq (e : Entry) (x : Status) :
    e.giveUp x = if e.status = .waiting then { e with status := x } else e := rfl

/-- The WAITING stations of a zone given up, in the words of the statements. -/
theorem giveUpZone_eq (z : ZoneId) (x : Status) (s : State) (r : Record) :
    giveUpZone z x s r = zoneGivenUp z x s r := by
  have h : (fun (k : Slot) (e : Entry) =>
        if (station k s).clk.zone = z then e.giveUp x else e) =
      fun k e => if e.status = .waiting ∧ (station k s).clk.zone = z then
        { e with status := x } else e := by
    funext k e
    by_cases a : (station k s).clk.zone = z <;> by_cases b : e.status = .waiting <;>
      simp only [giveUp_eq, a, b, and_true, and_false, if_true, if_false]
  unfold giveUpZone zoneGivenUp
  rw [h]

/-- The question of R104, in the words of the statements. -/
theorem judgeDeadline_eq (z : ZoneId) (s : State) (r : Record) :
    judgeDeadline z s r = deadlineJudged s z r := by
  unfold judgeDeadline deadlineJudged
  simp only [deadlineFrom_eq]
  cases h : r.ended with
  | false => simp only [Bool.not_false, if_true, Bool.false_eq_true, if_false]
  | true =>
    have m := deadlineValue_none (zoneEntry z s) (s.ring.epochEnd r.epoch) 0
    cases v : deadlineValue (zoneEntry z s) (s.ring.epochEnd r.epoch) 0 with
    | none =>
      have w := m.1 v
      simp only [Bool.not_true, Bool.false_eq_true, if_false, if_true, w]
    | some t =>
      have w : (zoneEntry z s).mode ≠ .noWait := fun e => by rw [m.2 e] at v; cases v
      cases r.zones[z].deadline <;>
        simp only [Bool.not_true, Bool.false_eq_true, if_false, if_true, w, Option.getD_some]

/-- A deadline that has passed leaves the record as it was (R104). -/
theorem deadlineJudged_passed {z : ZoneId} {s : State} {r : Record}
    (h : (deadlineJudged s z r).1 = true) : (deadlineJudged s z r).2 = r := by
  revert h
  unfold deadlineJudged
  split
  · split
    · exact fun _ => rfl
    · exact fun _ => rfl
    · exact fun h => by cases h
    · split
      · exact fun _ => rfl
      · exact fun h => by cases h
  · exact fun h => by cases h

/-- The record's end event (R103), in the words of the statements. -/
theorem endRecord_eq (s : State) (r : Record) (h : r.state = .opened) :
    endRecord s r = endedRecord s r := by
  have zones : (fun (z : ZoneId) (w : ZoneWait) => endDeadline s r z w) = fun z w =>
      if ∃ k : Slot, r.entries[k].status = .waiting ∧ (station k s).clk.zone = z then
        match deadlineValue (zoneEntry z s) (s.ring.epochEnd r.epoch) 0 with
        | some t => { deadline := .pending t, extension := 0 }
        | none => w
      else w := by
    funext z w
    have any : ((List.finRange 64).any fun k => waitsInZone z s r k) = true ↔
        ∃ k : Slot, r.entries[k].status = .waiting ∧ (station k s).clk.zone = z := by
      simp only [List.any_eq_true, List.mem_finRange, true_and, waitsInZone, Bool.and_eq_true,
        beq_iff_eq]
    unfold endDeadline
    rw [deadlineFrom_eq]
    by_cases c : ∃ k : Slot, r.entries[k].status = .waiting ∧ (station k s).clk.zone = z
    · rw [if_pos (any.2 c), if_pos c] <;>
        cases deadlineValue (zoneEntry z s) (s.ring.epochEnd r.epoch) 0 <;> rfl
    · rw [if_neg (fun x => c (any.1 x)), if_neg c]
  have entries : (fun (k : Slot) (e : Entry) =>
        if (zoneEntry (station k s).clk.zone s).mode = .noWait then e.giveUp .absentTimeout else e) =
      fun k e => if e.status = .waiting ∧ (zoneEntry (station k s).clk.zone s).mode = .noWait then
        { e with status := .absentTimeout } else e := by
    funext k e
    by_cases a : (zoneEntry (station k s).clk.zone s).mode = .noWait <;>
      by_cases b : e.status = .waiting <;>
      simp only [giveUp_eq, a, b, and_true, and_false, if_true, if_false]
  have o : r.isOpen = true := by simp only [Record.isOpen, h, beq_self_eq_true]
  unfold endRecord endedRecord
  rw [if_pos o, zones, entries] <;> rfl

/-- A SET_ZONE in one record (R152), in the words of the statements. -/
theorem rezoneRecord_eq (z : ZoneId) (s : State) (r : Record) :
    rezoneRecord z s r = rezonedRecord s z r := by
  unfold rezoneRecord rezonedRecord
  simp only [deadlineFrom_eq, Record.isOpen, Bool.and_eq_true, beq_iff_eq]
  by_cases h : r.state = .opened ∧ r.ended = true
  · rw [if_pos h, if_pos h]
    cases v : deadlineValue (zoneEntry z s) (s.ring.epochEnd r.epoch) r.zones[z].extension with
    | none =>
      cases d : r.zones[z].deadline with
      | absent => simp only [closeZone, giveUpZone_eq, ZoneWait.endWait, d]
      | pending u => simp only [closeZone, giveUpZone_eq, ZoneWait.endWait, d]
      | expired u =>
        simp only [closeZone, giveUpZone_eq, ZoneWait.endWait, d, put_self, zoneGivenUp]
    | some t =>
      cases d : r.zones[z].deadline with
      | pending u =>
        simp only []
        by_cases c : t ≤ now s
        · rw [if_pos c, if_pos c]
          simp only [expireZone, giveUpZone_eq, zoneGivenUp, put_get_self, ZoneWait.expire, put_put]
        · rw [if_neg c, if_neg c]
      | absent => rfl
      | expired u => rfl
  · rw [if_neg h, if_neg h]

/-- A change of zone in one record (R151), in the words of the statements. -/
theorem moveZoneRecord_eq (k : Slot) (z : ZoneId) (s : State) (r : Record) :
    moveZoneRecord k z s r = movedRecord s k z r := by
  unfold moveZoneRecord movedRecord
  simp only [deadlineFrom_eq, Record.isOpen, Bool.and_eq_true, beq_iff_eq, judgeDeadline_eq,
    and_assoc]
  by_cases h : r.state = .opened ∧ r.ended = true ∧ r.entries[k].status = .waiting
  · rw [if_pos h, if_pos h]
    unfold deadlineJudged
    rw [if_pos h.2.1]
    cases v : deadlineValue (zoneEntry z s) (s.ring.epochEnd r.epoch) 0 with
    | none => rfl
    | some t =>
      cases d : r.zones[z].deadline with
      | pending u => rfl
      | expired u => simp only [ZoneWait.passAt, d, if_true, put_self]
      | absent =>
        by_cases c : t ≤ now s
        · simp only [ZoneWait.passAt, d, if_pos c, if_true]
        · simp only [if_neg c, Bool.false_eq_true, if_false]
  · rw [if_neg h, if_neg h]

/-- The second step of a final step in one record (R122), in the words of the statements. -/
theorem recomputeStatus_eq (k : Slot) (s : State) (r : Record) :
    recomputeStatus k s r = recoveredRecord s k r := by
  have waits : (r.entries[k].status = .waiting ∨ r.entries[k].status.isPassed = true) ↔
      (r.entries[k].status = .waiting ∨ r.entries[k].status = .passed ∨
        r.entries[k].status = .passedGap) := by
    cases r.entries[k].status <;> decide
  have lost : (station k s).clk.state.canBeEligible = true ↔
      ¬((station k s).clk.state ≠ .locked ∧ (station k s).clk.state ≠ .tracking) := by
    cases (station k s).clk.state <;> decide
  unfold recomputeStatus recoveredRecord
  simp only [judgeDeadline_eq, Record.isOpen, Bool.and_eq_true, Bool.or_eq_true, beq_iff_eq, waits]
  by_cases h : r.state = .opened ∧ (r.entries[k].status = .waiting ∨
      r.entries[k].status = .passed ∨ r.entries[k].status = .passedGap)
  · rw [if_pos h, if_pos h]
    by_cases c : covers k r.epoch s = true
    · rw [if_pos c, if_pos c]
      rfl
    · rw [if_neg c, if_neg c]
      by_cases a : (station k s).clk.state ≠ .locked ∧ (station k s).clk.state ≠ .tracking
      · have e : (station k s).clk.state.canBeEligible = false := by
          simpa using fun x => lost.1 x a
        simp only [eligible, e, Bool.false_and, Bool.false_eq_true, if_false, Bool.not_false,
          if_true, if_pos a]
      · have e : (station k s).clk.state.canBeEligible = true := lost.2 a
        rw [if_neg a]
        cases q : (station k s).sq.silent with
        | true =>
          simp only [eligible, e, q, Bool.not_true, Bool.and_false, Bool.false_and,
            Bool.false_eq_true, if_false, if_true]
        | false =>
          by_cases m : (zoneEntry (station k s).clk.zone s).mode = .noWait
          · simp only [eligible, e, q, m, bne_self_eq_false, Bool.and_false, Bool.not_true,
              Bool.false_eq_true, if_false, if_true]
          · have n : ((zoneEntry (station k s).clk.zone s).mode != .noWait) = true := by
              simpa using m
            simp only [eligible, e, q, n, m, Bool.not_false, Bool.and_true, if_true, if_false,
              Bool.false_eq_true]
            by_cases j : (deadlineJudged s (station k s).clk.zone r).1 = true
            · rw [if_pos j, if_pos j, deadlineJudged_passed j]
            · rw [if_neg j, if_neg j]
  · rw [if_neg h, if_neg h]

/-- The passing test in an OPEN record (R94), as a change of one entry. -/
theorem passRecord_opened (k : Slot) (s : State) (r : Record) (o : r.state = .opened) :
    passRecord k s r =
      { r with entries := put r.entries k { r.entries[k] with
          status := if r.entries[k].status = .waiting ∧ covers k r.epoch s = true then
            passedStatus r.entries[k].gap else r.entries[k].status } } := by
  have t : (r.isOpen && r.entries[k].status == .waiting && covers k r.epoch s) = true ↔
      r.entries[k].status = .waiting ∧ covers k r.epoch s = true := by
    simp only [Record.isOpen, o, beq_self_eq_true, Bool.true_and, Bool.and_eq_true, beq_iff_eq]
  unfold passRecord
  by_cases c : r.entries[k].status = .waiting ∧ covers k r.epoch s = true
  · rw [if_pos (t.2 c), if_pos c]
  · rw [if_neg (fun x => c (t.1 x)), if_neg c]
    exact congrArg (fun v => { r with entries := v }) (put_self r.entries k).symm

/-- An entry that a filing counts, marks where the block overlaps the record, and passes (R93 to R95). -/
theorem countedEntry_eq (e : Entry) (marks covered : Bool) :
    (let e2 := if marks then e.countUp.markGap else e.countUp
     { e2 with status := if e2.status = .waiting ∧ covered = true then
         passedStatus e2.gap else e2.status : Entry }) =
    { count := min (e.count + 1) 255
      gap := e.gap || marks
      status := if e.status = .waiting ∧ covered = true then
          (if (e.gap || marks) = true then .passedGap else .passed)
        else if e.status = .passed ∧ marks = true then .passedGap
        else e.status } := by
  obtain ⟨x, g, c⟩ := e
  cases marks <;> cases covered <;> cases g <;> cases x <;> rfl

/-- An ADAPTIVE extension (R106), in the words of the statements. -/
theorem extend_eq (e : ZoneEntry) (stop : Nat) (w : ZoneWait) :
    w.extend e stop = extendedWait e stop w := by
  unfold ZoneWait.extend extendedWait
  cases w.deadline <;> simp only [holdTime_nat, seconds, deadlineFrom_eq]

/-- The filing of a block in one record (R92 to R95, R106), in the words of the statements: what the filing does, then the passing test. -/
theorem fileInRecord_eq (s : State) (i : Nat) (b : Block) (t : Target) (r : Record) :
    passRecord b.slot s (fileInRecord s.ring (station b.slot s).clk.zone
      (zoneEntry (station b.slot s).clk.zone s) i b t r) = filedRecord s i t.epoch t.late b r := by
  unfold fileInRecord filedRecord
  by_cases o : r.state = .opened
  · have o' : r.isOpen = true := by simp only [Record.isOpen, o, beq_self_eq_true]
    rw [if_pos o', if_pos o]
    dsimp only
    rw [extend_eq]
    generalize s.ring.blockOverlaps b r.epoch = reaches
    have rise : decide (r.entries[b.slot].count < r.entries[b.slot].countUp.count) =
        decide (r.entries[b.slot].count < 255) := by
      simp only [Entry.countUp]
      congr 1
      exact propext ⟨by omega, by omega⟩
    by_cases c : (decide (r.epoch = t.epoch) || reaches) = true
    · have e := countedEntry_eq r.entries[b.slot] (reaches && b.flags.marksGap)
        (covers b.slot r.epoch s)
      rw [if_pos c, passRecord_opened]
      · dsimp only at e ⊢
        rw [put_get_self, put_put, e, rise, c]
        simp only [Bool.true_and, if_true, BlockFlags.marksGap, Bool.and_eq_true,
          decide_eq_true_eq, beq_eq_decide]
        congr
      · exact o
    · have c' : (decide (r.epoch = t.epoch) || reaches) = false := by simpa using c
      have m : ¬r.epoch = t.epoch := by
        intro x; simp [x] at c
      have f : reaches = false := by cases reaches <;> simp_all
      rw [if_neg c, passRecord_opened _ _ _ o]
      subst f
      simp only [m, decide_false, Bool.or_false, Bool.false_and, Bool.false_eq_true, if_false,
        false_and, and_false, passedStatus]
  · have o' : r.isOpen = false := by simpa [Record.isOpen] using o
    simp only [o', if_neg o, passRecord, Bool.false_eq_true, if_false, Bool.false_and]

/-- An OPEN record as the old times of a re-placed block leave it (R120), as one change of it. -/
theorem leaveRecord_opened (ring : Ring) (own n i : Nat) (b : Block) (r : Record)
    (o : r.state = .opened) :
    leaveRecord ring own n i b r =
      { r with
        entries := put r.entries b.slot
          (if (decide (r.epoch = own) || ring.blockOverlaps b r.epoch) = true then
            r.entries[b.slot].countDown else r.entries[b.slot])
        blocks := if r.epoch = own ∧ own ≠ n then r.blocks.filter (· != i) else r.blocks
        late := if (r.epoch = own ∧ own ≠ n) ∧ b.flags.late = true then r.late - 1 else r.late } := by
  have o' : r.isOpen = true := by simp only [Record.isOpen, o, beq_self_eq_true]
  unfold leaveRecord
  rw [o', Bool.true_and]
  by_cases c : (decide (r.epoch = own) || ring.blockOverlaps b r.epoch) = true
  · rw [if_pos c, if_pos c]
    simp only [Bool.and_eq_true, decide_eq_true_eq]
  · have m : ¬r.epoch = own := fun x => c (by simp [x])
    rw [if_neg c, if_neg c, put_self]
    simp only [m, false_and, if_false]

/-- An OPEN record as the new times of a re-placed block leave it (R120), as one change of it. -/
theorem joinRecord_opened (ring : Ring) (own n i : Nat) (wasLate carried : Bool) (b : Block)
    (r : Record) (o : r.state = .opened) :
    joinRecord ring own n i wasLate carried b r =
      { r with
        entries := put r.entries b.slot
          (if (decide (r.epoch = n) || ring.blockOverlaps b r.epoch) = true then
            (if (ring.blockOverlaps b r.epoch && b.flags.marksGap) = true then
              r.entries[b.slot].countUp.markGap else r.entries[b.slot].countUp)
            else r.entries[b.slot])
        blocks := if r.epoch = n ∧ own ≠ n then r.blocks ++ [i] else r.blocks
        late := if (r.epoch = n ∧ carried = true) ∧ (own ≠ n ∨ wasLate = false) then r.late + 1
          else r.late } := by
  have o' : r.isOpen = true := by simp only [Record.isOpen, o, beq_self_eq_true]
  unfold joinRecord
  dsimp only
  rw [o', Bool.true_and]
  by_cases c : (decide (r.epoch = n) || ring.blockOverlaps b r.epoch) = true
  · rw [if_pos c, if_pos c]
    by_cases e : r.epoch = n <;> by_cases f : own = n <;> cases wasLate <;> cases carried <;>
      simp [e, f]
  · have m : ¬r.epoch = n := fun x => c (by simp [x])
    rw [if_neg c, if_neg c, put_self]
    simp only [m, false_and, if_false]

/-- An entry that a re-placement leaves and joins (R120). -/
theorem replacedEntry_eq (e : Entry) (was joins marks : Bool) (h : marks = true → joins = true) :
    (let e1 := if was = true then e.countDown else e
     if joins = true then (if marks = true then e1.countUp.markGap else e1.countUp) else e1) =
    { count :=
        let lowered := if was = true ∧ e.count ≠ 255 then e.count - 1 else e.count
        if joins = true then min (lowered + 1) 255 else lowered
      gap := e.gap || marks
      status := if e.status = .passed ∧ marks = true then .passedGap else e.status } := by
  obtain ⟨x, g, c⟩ := e
  cases marks with
  | true =>
    rw [h rfl]
    by_cases f : c = 255 <;> cases was <;>
      simp [Entry.countUp, Entry.countDown, Entry.markGap, f]
  | false =>
    by_cases f : c = 255 <;> cases was <;> cases joins <;>
      simp [Entry.countUp, Entry.countDown, f]

/-- A re-placement in one record (R120), in the words of the statements: the old times left, then the new ones joined. -/
theorem replaced_eq (s : State) (i own n : Nat) (carried : Bool) (b b1 : Block) (r : Record)
    (h : b1.slot = b.slot) (hf : b1.flags.marksGap = b.flags.marksGap) :
    joinRecord s.ring own n i b.flags.late carried b1 (leaveRecord s.ring own n i b r) =
      replacedRecord s i own n carried b b1 r := by
  by_cases o : r.state = .opened
  · have j : leaveRecord s.ring own n i b r = _ := leaveRecord_opened _ _ _ _ _ _ o
    rw [j, joinRecord_opened]
    · have slot : b1 = { b1 with slot := b.slot } := by rw [← h]
      rw [slot]
      unfold replacedRecord
      rw [if_pos o]
      dsimp only
      rw [hf, put_get_self, put_put]
      have ent := replacedEntry_eq r.entries[b.slot]
        (decide (r.epoch = own) || s.ring.blockOverlaps b r.epoch)
        (decide (r.epoch = n) || s.ring.blockOverlaps { b1 with slot := b.slot } r.epoch)
        (s.ring.blockOverlaps { b1 with slot := b.slot } r.epoch && b.flags.marksGap)
        (fun x => by rw [Bool.and_eq_true] at x; simp [x.1])
      dsimp only at ent
      rw [ent, BlockFlags.marksGap]
      by_cases e : own = n
      · simp only [e, ne_eq, not_true, and_false, if_false, if_true, false_and, false_or, and_assoc]
      · by_cases f : r.epoch = own
        · have keep : (fun x : Nat => x != i) = fun x => decide (¬x = i) := by
            funext x
            rw [Bool.eq_iff_iff, bne_iff_ne, decide_eq_true_eq]
          simp only [e, f, ne_eq, not_false_eq_true, and_true, if_true, if_false, true_and,
            false_and, keep]
        · simp only [e, f, ne_eq, not_false_eq_true, and_true, if_false, false_and, true_or]
    · exact o
  · have o' : r.isOpen = false := by simpa [Record.isOpen] using o
    simp only [leaveRecord, joinRecord, replacedRecord, o', if_neg o, Bool.false_and,
      Bool.false_eq_true, if_false]

end Sys2Proof.Machine
end

