-- ==== Sys2Proof/Laws/Scheduler.lean ====
section
/-! SUPPORT. What a grant can do (R163, R166, R168), said once for the pending queues and for the urgent slots: the answer of the owner for the winner the command names, and nothing otherwise. -/

namespace Sys2Proof.Machine

open Sys2Proof.Safety

/-! ## A grant command that names the winner's kind -/

theorem grantHead_wins {α : Type} {sel : ServiceReq → Option α}
    {owner : PortId → α → State → Answer} {s : State} {p : PortId} {q : Queued}
    {rest : List Queued} {a : α} (w : Wins p q rest s) (h : sel q.req = some a) :
    grantHead sel owner s =
      granted p q.tag (reqKind q.req) (owner p a (grantsHead p (reqNames q.req) s)).code
        (owner p a (grantsHead p (reqNames q.req) s)).data
        (owner p a (grantsHead p (reqNames q.req) s)).st := by
  simp only [grantHead, w.1, w.2, h, answerGrant_eq]

theorem grantUrgent_wins {owner : Urgent → State → Answer} {s : State} {p : PortId} {u : Urgent}
    (w : WinsUrgent p u s) :
    grantUrgent owner s =
      granted p u.tag 10 (owner u (grantsUrgent p (slotOf u.slot) s)).code
        (owner u (grantsUrgent p (slotOf u.slot) s)).data
        (owner u (grantsUrgent p (slotOf u.slot) s)).st := by
  simp only [grantUrgent, w.1, w.2, answerGrant_eq]

/-! ## A grant command that names another kind than the winner's -/

/-- A grant answers a winner that the command selects, or changes nothing. -/
theorem grantHead_cases {α : Type} (sel : ServiceReq → Option α)
    (owner : PortId → α → State → Answer) (s : State) :
    grantHead sel owner s = s ∨
      ∃ p q rest a, Wins p q rest s ∧ sel q.req = some a ∧
        grantHead sel owner s =
          answerGrant p q.tag (reqKind q.req) (owner p a (grantsHead p (reqNames q.req) s)) := by
  unfold grantHead
  cases hw : winner s with
  | none => exact Or.inl rfl
  | some w =>
    cases w with
    | urgent p => exact Or.inl rfl
    | head p =>
      cases hq : (port p s).queue with
      | nil => simp only [hq]; exact Or.inl trivial
      | cons q rest =>
        cases ha : sel q.req with
        | none => simp only [hq, ha]; exact Or.inl trivial
        | some a =>
          refine Or.inr ⟨p, q, rest, a, ⟨hw, hq⟩, ha, ?_⟩
          simp only [hq, ha]

/-- An urgent grant answers the winning urgent slot, or changes nothing. -/
theorem grantUrgent_cases (owner : Urgent → State → Answer) (s : State) :
    grantUrgent owner s = s ∨
      ∃ p u, WinsUrgent p u s ∧
        grantUrgent owner s =
          answerGrant p u.tag 10 (owner u (grantsUrgent p (slotOf u.slot) s)) := by
  unfold grantUrgent
  cases hw : winner s with
  | none => exact Or.inl rfl
  | some w =>
    cases w with
    | head p => exact Or.inl rfl
    | urgent p =>
      cases hu : (port p s).urgent with
      | none => simp only [hu]; exact Or.inl trivial
      | some u =>
        refine Or.inr ⟨p, u, ⟨hw, hu⟩, ?_⟩
        simp only [hu]

/-! ## What a grant does to the ports before its owner acts -/

/-- The granted head leaves its port's queue, every other head loses (R166, R168). -/
theorem port_grantsHead (r p : PortId) (n : Option Slot) (s : State) :
    port r (grantsHead p n s) =
      if r = p then (port r s).popHead else (port r s).lose (tuning s) := by
  simp only [port, grantsHead, imap_get]

/-- The granted urgent slot becomes empty, every head loses (R166, R168). -/
theorem port_grantsUrgent (r p : PortId) (n : Option Slot) (s : State) :
    port r (grantsUrgent p n s) =
      if r = p then { (port r s).lose (tuning s) with urgent := none }
      else (port r s).lose (tuning s) := by
  simp only [port, grantsUrgent, imap_get]

/-- A head that loses keeps everything of its port but its age, guard count and overdue flag (R168). -/
theorem lose_keeps (t : Tuning) (p : PortState) :
    p.lose t = { p with age := (p.lose t).age, guards := (p.lose t).guards,
                        overdue := (p.lose t).overdue } := by
  unfold PortState.lose
  split
  · rfl
  · split <;> rfl

/-- An urgent slot that wins a grant is occupied (R166). -/
theorem winner_urgent {s : State} {p : PortId} (h : winner s = some (.urgent p)) :
    ((port p s).urgent).isSome = true := by
  unfold winner at h
  split at h
  · next q hq =>
    cases h
    simpa using List.find?_some hq
  · split at h
    · cases h
    · cases hb : bestHead s s.sched.order with
      | none => rw [hb] at h; cases h
      | some b => rw [hb] at h; cases h

/-- The best head of a list of ports is the head of a non-empty queue (R166). -/
theorem bestHead_some {s : State} {l : List PortId} {p : PortId} {n : Nat}
    (h : bestHead s l = some (p, n)) : portScore p s = some n := by
  induction l generalizing p n with
  | nil => simp [bestHead] at h
  | cons r l ih =>
    unfold bestHead at h
    split at h
    · exact ih h
    · next m hm _ => cases h; exact hm
    · next m q k hm hb =>
      split at h
      · cases h; exact hm
      · cases h; exact ih hb

/-- A head that wins a grant is in its port's queue (R166). -/
theorem winner_head {s : State} {p : PortId} (h : winner s = some (.head p)) :
    ∃ q rest, (port p s).queue = q :: rest := by
  unfold winner at h
  split at h
  · cases h
  · split at h
    · next r hr =>
      cases h
      have := List.find?_some hr
      cases hq : (port p s).queue with
      | nil => simp [hq] at this
      | cons q rest => exact ⟨q, rest, rfl⟩
    · cases hb : bestHead s s.sched.order with
      | none => rw [hb] at h; cases h
      | some b =>
        rw [hb] at h
        cases h
        have := bestHead_some (p := b.1) (n := b.2) hb
        cases hq : (port b.1 s).queue with
        | nil => simp [portScore, hq] at this
        | cons q rest => exact ⟨q, rest, rfl⟩

end Sys2Proof.Machine
end

