-- ==== Sys2Proof/Laws/Shape.lean ====
section
/-! SUPPORT. The validation of a shape set: which item is named, and when none is (R150). -/

namespace Sys2Proof.Machine

/-- The station table as validation reads it, by slot. -/
theorem occupancy_get (s : State) (k : Slot) : (occupancy s)[k] =
    if (station k s).clk.state = .vacant then none else some (station k s).clk.code := by
  simp only [occupancy, imap_get]; rfl

/-- Validation names the first invalid item by its place, counted on from m, each item judged against the table as the items before it leave it (R150). -/
theorem firstInvalid_some_iff (l : List ShapeItem) : ∀ (m : Nat) (o : Occupancy) (n : Nat) (e : Config.ShapeReason),
    firstInvalid m o l = some (n, e) ↔
      ∃ (before after : List ShapeItem) (item : ShapeItem) (left : Occupancy),
        l = before ++ item :: after ∧ n = before.length + m ∧
        before.foldlM checkItem o = .ok left ∧ checkItem left item = .error e := by
  induction l with
  | nil => intro m o n e; simp [firstInvalid]
  | cons i l ih =>
    intro m o n e
    unfold firstInvalid
    cases h : checkItem o i with
    | error x =>
      constructor
      · intro g; cases g
        exact ⟨[], l, i, o, rfl, by simp, rfl, h⟩
      · rintro ⟨bs, as, it, left, h1, h2, h3, h4⟩
        cases bs with
        | nil => simp at h1; obtain ⟨rfl, rfl⟩ := h1; cases h3; rw [h] at h4; cases h4; simp at h2; rw [h2]
        | cons b bs =>
          simp at h1; obtain ⟨rfl, rfl⟩ := h1
          simp only [List.foldlM_cons, h] at h3; cases h3
    | ok o1 =>
      simp only []
      rw [ih]
      constructor
      · rintro ⟨bs, as, it, left, rfl, h2, h3, h4⟩
        exact ⟨i :: bs, as, it, left, rfl, by simp; omega, by simp only [List.foldlM_cons, h]; exact h3, h4⟩
      · rintro ⟨bs, as, it, left, h1, h2, h3, h4⟩
        cases bs with
        | nil => simp at h1; obtain ⟨rfl, rfl⟩ := h1; cases h3; rw [h] at h4; cases h4
        | cons b bs =>
          simp at h1; obtain ⟨rfl, rfl⟩ := h1
          simp only [List.foldlM_cons, h] at h3
          exact ⟨bs, as, it, left, rfl, by simp at h2; omega, h3, h4⟩

/-- Validation finds nothing exactly when every item is valid in its turn (R150). -/
theorem firstInvalid_none_iff (l : List ShapeItem) : ∀ (m : Nat) (o : Occupancy),
    firstInvalid m o l = none ↔ ∃ left : Occupancy, l.foldlM checkItem o = .ok left := by
  induction l with
  | nil => intro m o; simp [firstInvalid]; exact ⟨o, rfl⟩
  | cons i l ih =>
    intro m o
    unfold firstInvalid
    cases h : checkItem o i with
    | error x =>
      simp only [List.foldlM_cons, h]
      constructor
      · intro g; cases g
      · rintro ⟨_, g⟩; cases g
    | ok o1 => simp only [List.foldlM_cons, h]; exact ih _ _

end Sys2Proof.Machine
end

