-- ==== Sys2Proof/Tests/Slice0.lean ====
section
/-! SUPPORT. The model's own tests: a smoke test of each well-formedness check, words of the manual's worked examples, frames written out byte by byte, and for every statement with hypotheses a witness: a concrete state and operands that meet them, clause by clause, at the boundary values of each clause. -/

namespace Sys2Proof.Tests

open Sys2Proof Sys2Proof.Machine Sys2Proof.Safety

/-! ## Small states -/

/-- A transfer on port CP0, and one on CP3. -/
def x0 : Xfer := { port := 0, tag := 7, clocked := 400 }
def x3 : Xfer := { port := 3, tag := 7, clocked := 400 }

/-- The state at another time. -/
def atTime (t : Nat) (s : State) : State := updTb (fun b => { b with now := t }) s

/-- The supervisor role held by a port. -/
def heldBy (p : PortId) (s : State) : State :=
  updSup (fun v => { v with role := some { port := p, challenge := 5, windowStart := 0,
                                           windowLength := 1000000 } }) s

/-- The quiesce state given a value. -/
def quiesceIs (q : Quiesce) (s : State) : State := updSup (fun v => { v with quiesce := q }) s

/-- One request waiting on a port. -/
def asks (p : PortId) (r : ServiceReq) (s : State) : State :=
  updPort p (fun q => { q with queue := [{ tag := 7, req := r }], inFlight := 1,
                               reservations := 1 }) s

/-- A full outbound queue. -/
def full (p : PortId) (s : State) : State :=
  updPort p (fun q => { q with out := List.replicate 12 (.haltNotice .corrupt) }) s

/-- A port that is HALTED. -/
def haltedPort (p : PortId) (s : State) : State := updPort p (fun q => { q with halted := true }) s

/-- A station with a clock state and an anchor. -/
def stationIs (k : Slot) (c : ClockState) (a : Option Nat) (s : State) : State :=
  updClk k (fun h => { h with state := c, anchor := a }) s

/-- A record in which only station 1 is expected, with a status. -/
def rec1 (n : Nat) (st : RecState) (x : Status) : Record :=
  { epoch := n, start := n * 10000000, state := st, reason := none, sealTime := none,
    releaseTime := some 0, ended := false,
    entries := Vector.ofFn fun k => if k.val = 1 then { status := x, gap := false, count := 0 }
      else { status := .notExpected, gap := false, count := 0 },
    zones := Vector.ofFn fun _ => { deadline := .absent, extension := 0 },
    blocks := [], late := 0, deferred := false, awaiting := 0 }

/-- A released record that awaits group 1. -/
def awaited : Record := { rec1 0 .released .passed with awaiting := 2 }

/-- An ACTIVE ring of epochs of 10 s from time 0. -/
def ringOf (released : Nat) (l : List Record) (s : State) : State :=
  { s with ring := { state := .active, origin := some 0, length := some 10, base := some 0,
                     releaseCount := released, boundary := some 10000000, records := l } }

/-- A block as a request carries it: station 1, one sample at 10 Hz. -/
def aBlock (q : SeqNo) : BlockReq :=
  { slot := 1, seq := q, start := 1000000, samples := 1, rate := 1, channels := 1, handle := 9 }

/-- A block record of station 1. -/
def aRecord (q : SeqNo) (p : Place) : Block :=
  { slot := 1, seq := q, start := 1000000, samples := 1, rate := 1, channels := 1, handle := 9,
    netStart := none, netEnd := none, generation := 0, flags := .none, place := p }

/-- A report of station 1, its mark at Ts and the offset it gives. -/
def aReport (ts tn : Nat) : ReportReq :=
  { slot := 1, ts := BitVec.ofNat 56 ts, tn := BitVec.ofNat 56 tn, lock := 1 }

/-- The state in which station 1 has taken block 100 and a SUBMIT_BLOCK waits on CP0. -/
def submitting (depth : Nat) (q : SeqNo) : State :=
  asks 0 (.submitBlock (aBlock q)) (ringOf 0 [rec1 0 .opened .waiting]
    (stationIs 1 .locked (some 0) (updSeq 1 (fun h => { h with
      depth := depth, expected := some 101, history := 1 }) State.reset)))

/-! ## Well-formedness: one ill-formed command for each check -/

theorem test_wf_refuses_a_short_transfer :
    (Instr.setTime { x0 with clocked := 11 } 0).wf = false ∧
    (Instr.setTime { x0 with clocked := 12 } 0).wf = true := by decide

theorem test_wf_refuses_an_unknown_kind_that_is_known :
    (Instr.unknownRequestKind x0 27 0).wf = false ∧ (Instr.unknownRequestKind x0 27 1).wf = true ∧
    (Instr.unknownRequestKind x0 34 0).wf = true ∧
    (Instr.unknownRequestKind { x0 with clocked := 9 } 34 5).wf = false := by decide

theorem test_wf_refuses_a_frame_error_of_the_wrong_length :
    (Instr.frameError 0 0 .truncated).wf = false ∧ (Instr.frameError 0 260 .truncated).wf = false ∧
    (Instr.frameError 0 4 .corrupt).wf = false ∧ (Instr.frameError 0 259 .truncated).wf = true ∧
    (Instr.frameError 0 5 .corrupt).wf = true := by decide

theorem test_wf_refuses_an_unknown_item_of_a_known_type :
    (Instr.stageShape x0 (.unknown 4)).wf = false ∧
    (Instr.stageShape x0 (.unknown 5)).wf = true := by decide

/-! ## Frames and words -/

/-- The check value of the CRC (12.2). -/
theorem test_crc_of_the_check_string :
    crc16 [0x31, 0x32, 0x33, 0x34, 0x35, 0x36, 0x37, 0x38, 0x39] = 0x29B1#16 := by decide +kernel

/-- A READ_STATION of slot 5 with tag 0x2A, and the same with a wrong CRC and cut short. -/
theorem test_read_station_frame :
    frameCommand 1 ([0x09, 0x2A, 0x01, 0x05] ++ bytes16 (crc16 [0x09, 0x2A, 0x01, 0x05])) =
      .readStation { port := 1, tag := 0x2A, clocked := 6 } 5 ∧
    frameCommand 1 [0x09, 0x2A, 0x01, 0x05, 0, 0] = .frameError 1 6 .corrupt ∧
    frameCommand 1 [0x09, 0x2A, 0x01, 0x05, 0] = .frameError 1 5 .truncated ∧
    frameCommand 1 [] = .transactionWithoutRequest 1 0 := by decide +kernel

/-- The fields of a SUBMIT_BLOCK lie where Table 12-3 puts them, most significant byte first. -/
theorem test_submit_block_body :
    readBody x0 1 [3, 0x01, 0x02, 0, 0, 0, 0, 0, 0x12, 0x34, 0x00, 0x64, 4, 6, 0xDE, 0xAD, 0xBE, 0xEF] =
      some (.submitBlock x0 { slot := 3, seq := 0x0102, start := 0x1234, samples := 100, rate := 4,
                              channels := 6, handle := 0xDEADBEEF }) := by decide +kernel

/-- A STAGE_SHAPE by its item type, and the order of its frame's bytes. -/
theorem test_stage_shape_body :
    readBody x0 21 [1, 9, 0x12, 0x34, 2, 4, 1, 0xFF] =
      some (.stageShape x0 (.addStation 9 0x1234 2 4 1)) ∧
    readBody x0 21 [4, 2, 1, 5, 1, 0x0E, 0x10, 3] =
      some (.stageShape x0 (.setZone 2 1 5 1 3600 3)) ∧
    readBody x0 21 [9, 0, 0, 0, 0, 0, 0, 0] = some (.stageShape x0 (.unknown 9)) ∧
    readBody x0 21 [1, 9] = none := by decide +kernel

/-! ## Worked examples of the manual -/

/-- R9: the two drift terms of the example, truncated towards zero. -/
theorem test_drift_terms_are_truncated :
    perBillion (3000000 * (-150)) = 0 ∧ perBillion (10000000 * (-150)) = -1 := by decide

/-- R11: the distance across the wrap. -/
theorem test_distance_across_the_wrap :
    seqDistance 2 65530 = 8 ∧ seqDistance 65530 2 = 65528 := by decide

/-- A step takes the front of the queue and leaves the rest. -/
theorem test_step_takes_the_front :
    step { State.reset with pending := [.referenceLoss, .ppsEdge] } =
      exec .referenceLoss { State.reset with pending := [.ppsEdge] } := rfl

/-! ## Witnesses: the Time Base -/

theorem witness_TheCounterAdvancesFromItsSource :
    (atTime (2 ^ 56 - 1) State.reset).tb.now ≤ 2 ^ 56 - 1 ∧
    State.reset.tb.source = .internal ∧
    (updTb (fun b => { b with source := .refclk }) State.reset).tb.source = .refclk := by
  decide +kernel

/-- The four rows of R5 at their limits, with a tolerance of 50. -/
theorem witness_PpsEdgeIsCheckedByItsFourRows :
    (tuning State.reset).ppsTolerance ≤ 1000 ∧ (tuning State.reset).ppsCheck = true ∧
    State.reset.tb.timeSet = false ∧
    (let s := updTb (fun b => { b with timeSet := true }) State.reset
     s.tb.timeSet = true ∧ (atTime 3000000 s).tb.now % 1000000 = 0 ∧
     (atTime 3000050 s).tb.now % 1000000 = (tuning s).ppsTolerance ∧
     (atTime 3999950 s).tb.now % 1000000 = 1000000 - (tuning s).ppsTolerance ∧
     (atTime 3000051 s).tb.now % 1000000 = (tuning s).ppsTolerance + 1 ∧
     (atTime 3999949 s).tb.now % 1000000 + 1 = 1000000 - (tuning s).ppsTolerance) := by
  decide +kernel

theorem witness_SetTimeStepsTheCounter :
    Supervises x3 (heldBy 3 State.reset) ∧ (heldBy 3 State.reset).ring.state = .stopped ∧
    (let s := atTime 5000000 (ringOf 0 [rec1 0 .opened .waiting] (heldBy 3 State.reset))
     Supervises x3 s ∧ s.ring.state = .active ∧
     (((6000000#56).toNat : Int) - (s.tb.now : Int)).natAbs = 1000000 ∧
     (((3999999#56).toNat : Int) - (s.tb.now : Int)).natAbs = 1000001) := by decide +kernel

theorem witness_ReadsChangeNoState :
    Takes x0 State.reset ∧ HasPlace x0 State.reset ∧
    HasPlace x0 (haltedPort 0 State.reset) ∧
    (port 0 State.reset).causes[(0 : Fin 21)].pending = true := by decide +kernel

/-! ## Witnesses: transactions and intake -/

/-- A port with a frame queued, and its transaction with all and with some of its bytes clocked. -/
def inTxn (queued : Bool) : State :=
  updPort 0 (fun q => { q with out := [.haltNotice .corrupt],
                               txn := some { queued := queued, bytes := [1, 2, 3] } }) State.reset

theorem witness_ATransactionSendsTheOldestFrame :
    (port 0 (full 0 State.reset)).out = .haltNotice .corrupt :: List.replicate 11 (.haltNotice .corrupt) ∧
    (port 0 State.reset).out = [] ∧ (port 0 State.reset).txn = none ∧
    (port 0 (inTxn true)).txn = some { queued := true, bytes := [1, 2, 3] } ∧
    [1, 2, 3].length ≤ ({ x0 with clocked := 3 } : Xfer).clocked ∧
    ({ x0 with clocked := 2 } : Xfer).clocked < [1, 2, 3].length ∧
    (port 0 (inTxn false)).txn = some { queued := false, bytes := [1, 2, 3] } := by decide +kernel

/-- CP0 with the HALT frame policy. -/
def haltPolicy (s : State) : State :=
  updSup (fun v => { v with rights := put v.rights 0 { Rights.default 0 with framePolicy := .halt } }) s

theorem witness_FrameErrorRaisesAndMayHalt :
    (rightsOf 0 State.reset).framePolicy = .drop ∧
    (rightsOf 0 (haltPolicy State.reset)).framePolicy = .halt ∧
    (port 0 (haltPolicy State.reset)).halted = false ∧
    ((port 0 (haltPolicy State.reset)).endTxn 3).out.length +
      ((port 0 (haltPolicy State.reset)).endTxn 3).reservations < 12 ∧
    ((port 0 (full 0 (haltPolicy State.reset))).endTxn 3).out.length +
      ((port 0 (full 0 (haltPolicy State.reset))).endTxn 3).reservations = 12 ∧
    (port 0 (haltedPort 0 (haltPolicy State.reset))).halted = true := by decide +kernel

theorem witness_HaltedAndFullPortsTurnRequestsAway :
    placed (.readTime x0) = some (x0, 27) ∧ placed (.portReset x0) = some (x0, 33) ∧
    (port 0 (haltedPort 0 State.reset)).halted = true ∧ HasPlace x0 (haltedPort 0 State.reset) ∧
    ¬HasPlace x0 (full 0 (haltedPort 0 State.reset)) ∧
    (port 0 (full 0 State.reset)).halted = false ∧ ¬HasPlace x0 (full 0 State.reset) ∧
    placed (.status x0) = some (x0, 31) ∧
    placed (.unknownRequestKind x0 33 9) = some (x0, 33) ∧ HasPlace x0 State.reset := by
  decide +kernel

/-- CP0 with a rights entry. -/
def withRights (r : Rights) (s : State) : State :=
  updSup (fun v => { v with rights := put v.rights 0 r }) s

/-- CP0 with its four credits in use. -/
def noCredits : State := updPort 0 (fun q => { q with inFlight := 4 }) State.reset

theorem witness_CreditRightAndQuiesceAreJudgedInOrder :
    (Instr.submitBlock x0 (aBlock 1)).request = some (x0, 1) ∧
    (Instr.startSweep x0).request = some (x0, 15) ∧
    (Instr.claimSupervisor x0 0).request = some (x0, 16) ∧
    (Instr.setRights x0 { port := 1, rights := 7, subscriptions := 1, credit := 4, framePolicy := 0,
                          violationPolicy := 0 }).request = some (x0, 26) ∧
    (Instr.releaseSupervisor x0).request = some (x0, 17) ∧
    Takes x0 noCredits ∧ ¬HasCredit x0 noCredits ∧
    (let s := withRights { Rights.default 0 with submit := false, supervise := false } State.reset
     Takes x0 s ∧ HasCredit x0 s ∧ (rightsOf 0 s).grants (needOf 1) = false ∧
     (rightsOf 0 s).grants (needOf 15) = false ∧ (rightsOf 0 s).grants (needOf 26) = false) ∧
    (Instr.zoneFlushed x0 0 0).request = some (x0, 3) ∧
    (let s := quiesceIs (.quiescing 3) State.reset
     Takes x0 s ∧ HasCredit x0 s ∧ (rightsOf 0 s).submit = true ∧ s.sup.quiesce ≠ .running) ∧
    (let s := updPort 0 (fun q => { q with urgent := some { tag := 1, slot := 1, time := 0 } }) State.reset
     Takes x0 s ∧ HasCredit x0 s ∧ (rightsOf 0 s).consume = true ∧
     (port 0 s).urgent.isSome = true) ∧
    (Instr.convert x0 1 0).request = some (x0, 10) ∧
    (Takes x0 State.reset ∧ (rightsOf 0 State.reset).supervise = true ∧
     isSup 0 State.reset = false) := by decide +kernel

theorem witness_TakenRequestsWaitForTheServicePath :
    waiting (.submitBlock x0 (aBlock 1)) = some (x0, .submitBlock (aBlock 1)) ∧
    waiting (.networkReset x0) = some (x0, .networkReset) ∧ Takes x0 State.reset ∧
    HasCredit x0 State.reset ∧
    (rightsOf 0 State.reset).grants (reqClass (.submitBlock (aBlock 1))).need = true ∧
    (rightsOf 0 State.reset).grants (reqClass .networkReset).need = true ∧
    State.reset.sup.quiesce = .running ∧
    reqClass .networkReset ≠ .submit ∧ (rightsOf 0 State.reset).consume = true ∧
    (port 0 State.reset).urgent = none := by decide +kernel

/-! ## Witnesses: the service path -/

/-- Two ports with one request each, the second overdue or with a CONVERT. -/
def contended (overdue urgent : Bool) : State :=
  updPort 2 (fun q => { q with overdue := overdue,
                               urgent := if urgent then some { tag := 1, slot := 1, time := 0 } else none })
    (asks 2 (.readStation 1) (asks 1 (.attach 1) State.reset))

theorem witness_TheWinnerIsUrgentThenOverdueThenBestScored :
    (contended false true).sched.order = [0, 1, 2, 3] ∧
    ((port 2 (contended false true)).urgent.isSome = true ∧
      ∀ q : PortId, q < 2 → (port q (contended false true)).urgent = none) ∧
    ((∀ q : PortId, (port q (contended true false)).urgent = none) ∧
      (port 2 (contended true false)).queue ≠ [] ∧ (port 2 (contended true false)).overdue = true ∧
      ∀ q : PortId, q < 2 →
        (port q (contended true false)).queue = [] ∨ (port q (contended true false)).overdue = false) ∧
    ((∀ q : PortId, (port q (contended false false)).queue = [] ∨
        (port q (contended false false)).overdue = false) ∧
      portScore 1 (contended false false) = some 2 ∧ portScore 2 (contended false false) = some 2 ∧
      portScore 0 (contended false false) = none ∧ portScore 3 (contended false false) = none) ∧
    (∀ q : PortId, (port q State.reset).queue = []) := by decide +kernel

theorem witness_ReadStationGrantAnswersAndAgesTheLosers :
    Wins 1 { tag := 7, req := .readStation 63 } [] (asks 1 (.readStation 63) State.reset) ∧
    slotOf 63 = some 63 ∧ slotOf 64 = none := by decide +kernel

/-- A CONVERT of a slot in CP0's urgent slot. -/
def converting (k : Byte) (s : State) : State :=
  updPort 0 (fun q => { q with urgent := some { tag := 7, slot := k, time := 9 }, inFlight := 1,
                               reservations := 1 }) s

theorem witness_ConvertAnswersFromThePresentModel :
    WinsUrgent 0 { tag := 7, slot := 64, time := 9 } (converting 64 State.reset) ∧
    slotOf 64 = none ∧ slotOf 1 = some 1 ∧
    WinsUrgent 0 { tag := 7, slot := 1, time := 9 } (converting 1 State.reset) ∧
    (station 1 (converting 1 State.reset)).clk.state = .vacant ∧
    (let s := converting 1 (stationIs 1 .acquiring none State.reset)
     WinsUrgent 0 { tag := 7, slot := 1, time := 9 } s ∧ (station 1 s).clk.state ≠ .vacant ∧
     (station 1 s).clk.anchor = none) ∧
    (let s := converting 1 (stationIs 1 .locked (some 3) State.reset)
     WinsUrgent 0 { tag := 7, slot := 1, time := 9 } s ∧ (station 1 s).clk.state ≠ .vacant ∧
     (station 1 s).clk.anchor = some 3) := by decide +kernel

theorem witness_ReleaseStationClearsAQuarantinedModel :
    Wins 3 { tag := 7, req := .releaseStation 1 } [] (asks 3 (.releaseStation 1) State.reset) ∧
    isSup 3 State.reset = false ∧
    Wins 3 { tag := 7, req := .releaseStation 64 } []
      (asks 3 (.releaseStation 64) (heldBy 3 State.reset)) ∧
    isSup 3 (heldBy 3 State.reset) = true ∧ slotOf 64 = none ∧
    (∀ c ∈ [ClockState.vacant, .acquiring, .quarantined],
      let s := asks 3 (.releaseStation 1) (heldBy 3 (stationIs 1 c none State.reset))
      Wins 3 { tag := 7, req := .releaseStation 1 } [] s ∧ isSup 3 s = true ∧ slotOf 1 = some 1 ∧
        (station 1 s).clk.state = c) := by decide +kernel

/-- A LOCKED and a QUARANTINED station, and the interval deadline at 4 s. -/
def toSweep : State :=
  stationIs 1 .locked (some 0) (stationIs 2 .quarantined (some 0) State.reset)

theorem witness_ASweepAgesTheTakenRecords :
    1 ∈ sweepSlots toSweep ∧ 2 ∈ sweepSlots toSweep ∧ 3 ∉ sweepSlots toSweep ∧
    (station 1 toSweep).clk.state = .locked ∧ (station 2 toSweep).clk.state = .quarantined ∧
    toSweep.sweep.deadline = some 4000000 ∧ now (atTime 4000000 toSweep) = 4000000 ∧
    now (atTime 3999999 toSweep) < 4000000 ∧
    (let s := { toSweep with
       sweep := { toSweep.sweep with pulses := 4 }
       sup := { toSweep.sup with active := { Tuning.default with trigger := .pulse } } }
     (tuning s).trigger = .pulse ∧ (tuning s).sweepN ≤ s.sweep.pulses) ∧
    Wins 3 { tag := 7, req := .startSweep } [] (asks 3 .startSweep toSweep) ∧
    isSup 3 (asks 3 .startSweep toSweep) = false ∧
    Wins 3 { tag := 7, req := .startSweep } [] (asks 3 .startSweep (heldBy 3 toSweep)) ∧
    isSup 3 (asks 3 .startSweep (heldBy 3 toSweep)) = true := by decide +kernel

/-! ## Witnesses: timing reports -/

/-- A report of station 1 waiting on CP0. -/
def reporting (r : ReportReq) (s : State) : State := asks 0 (.submitReport r) s

/-- It wins the grant. -/
abbrev ReportWins (r : ReportReq) (s : State) : Prop :=
  Wins 0 { tag := 7, req := .submitReport r } [] (reporting r s) ∧ slotOf r.slot = some 1

theorem witness_ReportRefusalsComeInOrder :
    Wins 0 { tag := 7, req := .submitReport { aReport 5 5 with slot := 64 } } []
      (reporting { aReport 5 5 with slot := 64 } State.reset) ∧
    slotOf ({ aReport 5 5 with slot := 64 } : ReportReq).slot = none ∧
    ReportWins (aReport 5 5) State.reset ∧ (station 1 State.reset).clk.state = .vacant ∧
    ReportWins (aReport 5 5) (stationIs 1 .quarantined none State.reset) ∧
    ReportWins (aReport 5 5) (stationIs 1 .locked (some 5) State.reset) ∧
    (aReport 5 5).ts.toNat ≤ 5 ∧
    ReportWins (aReport 6 2147483654) (stationIs 1 .locked (some 5) State.reset) ∧
    5 < (aReport 6 2147483654).ts.toNat ∧
    ((aReport 6 2147483654).tn.toNat : Int) - (aReport 6 2147483654).ts.toNat = 2147483648 ∧
    ((aReport 6 2147483653).tn.toNat : Int) - (aReport 6 2147483653).ts.toNat = 2147483647 ∧
    ((aReport 2147483649 0).tn.toNat : Int) - (aReport 2147483649 0).ts.toNat = -2147483649 ∧
    ReportWins (aReport 2147483648 0) (stationIs 1 .acquiring none State.reset) ∧
    ((aReport 2147483648 0).tn.toNat : Int) - (aReport 2147483648 0).ts.toNat = -2147483648 := by
  decide +kernel

theorem witness_AReportAnchorsAnAcquiringStation :
    ReportWins (aReport 1 2147483648) (stationIs 1 .acquiring none State.reset) ∧
    (station 1 (stationIs 1 .acquiring none State.reset)).clk.state = .acquiring ∧
    (station 1 (stationIs 1 .acquiring none State.reset)).clk.anchor = none ∧
    ((aReport 1 2147483648).tn.toNat : Int) - (aReport 1 2147483648).ts.toNat = 2147483647 := by
  decide +kernel

/-- A residual at the gate of 500 µs, and one beyond it. -/
theorem witness_AnAcceptedReportMovesTheModel :
    (let s := stationIs 1 .tracking (some 0) State.reset
     ReportWins (aReport 1000000 1000500) s ∧ (station 1 s).clk.state ≠ .vacant ∧
     (station 1 s).clk.state ≠ .quarantined ∧ (station 1 s).clk.anchor = some 0 ∧
     (station 1 s).clk.offset = 0 ∧ (station 1 s).clk.drift = 0 ∧
     ((1000500 : Int) - 1000000).natAbs ≤ (tuning s).baseGate + (station 1 s).clk.uncertainty) := by
  decide +kernel

theorem witness_ARejectedReportStepsOrFaults :
    (let s := stationIs 1 .tracking (some 0) State.reset
     ReportWins (aReport 1000000 1000501) s ∧ (station 1 s).clk.anchor = some 0 ∧
     (tuning s).baseGate + (station 1 s).clk.uncertainty < ((1000501 : Int) - 1000000).natAbs ∧
     (station 1 s).clk.candidate = none ∧ 1 < (tuning s).stepConfirm ∧
     (station 1 s).clk.faults + 1 < (tuning s).faultThreshold ∧
     (let u := updClk 1 (fun c => { c with faults := 4 }) s
      ReportWins (aReport 1000000 1000501) u ∧
      (tuning u).faultThreshold = (station 1 u).clk.faults + 1) ∧
     (let u := updClk 1 (fun c => { c with candidate := some { offset := 501, confirmations := 2 } }) s
      ReportWins (aReport 1000000 1000501) u ∧ (tuning u).stepConfirm = 2 + 1 ∧
      ((501 : Int) - 501).natAbs ≤ (tuning u).baseGate)) := by decide +kernel

/-! ## Witnesses: block intake -/

theorem witness_ClassificationFollowsTheDistance :
    (let s := updPool (·.take (aRecord 9 .held)) (submitting 2 101)
     (∃ e ∈ s.pool.used, e.2.slot = 1 ∧ e.2.seq = 9) ∧
     ∀ e ∈ s.pool.used, ¬(e.2.slot = 1 ∧ e.2.seq = 8)) ∧
    (station 2 (submitting 2 101)).sq.expected = none ∧
    (station 1 (submitting 2 101)).sq.expected = some 101 ∧
    (101 + 65536 - 101) % 65536 = 0 ∧ (102 + 65536 - 101) % 65536 = 1 ∧
    (165 + 65536 - 101) % 65536 = 64 ∧ (166 + 65536 - 101) % 65536 = 65 ∧
    (32868 + 65536 - 101) % 65536 = 32767 ∧ (32869 + 65536 - 101) % 65536 = 32768 ∧
    (36 + 65536 - 101) % 65536 = 65471 ∧ (37 + 65536 - 101) % 65536 = 65472 ∧
    (100 + 65536 - 101) % 65536 = 65535 ∧
    (station 1 (submitting 2 101)).sq.history.getLsbD (65535 - 65535) = true ∧
    (station 1 (submitting 2 101)).sq.history.getLsbD (65535 - 65472) = false := by decide +kernel

/-- A SUBMIT_BLOCK that wins the grant on CP0. -/
abbrev BlockWins (b : BlockReq) (s : State) : Prop :=
  Wins 0 { tag := 7, req := .submitBlock b } [] (asks 0 (.submitBlock b) s)

theorem witness_BlockRefusalsComeInOrder :
    BlockWins (aBlock 1) State.reset ∧ State.reset.sealMade = false ∧
    State.reset.ring.state = .stopped ∧
    (let s := submitting 2 101
     s.ring.state = .active ∧ BlockWins { aBlock 1 with slot := 64 } s ∧
     slotOf ({ aBlock 1 with slot := 64 } : BlockReq).slot = none ∧
     (∀ c ∈ [ClockState.vacant, .acquiring, .quarantined, .unreliable],
       BlockWins (aBlock 1) (stationIs 1 c none s) ∧
       (station 1 (stationIs 1 c none s)).clk.state = c) ∧
     (station 1 s).clk.state.aged = true ∧
     (∀ b ∈ [{ aBlock 1 with samples := 0 }, { aBlock 1 with samples := 4097 },
         { aBlock 1 with rate := 9 }, { aBlock 1 with channels := 0 }, { aBlock 1 with channels := 7 },
         { aBlock 1 with rate := 0, samples := 41 }], BlockWins b s ∧ slotOf b.slot = some 1) ∧
     4 * s.ring.lengthUs < duration 41 0 ∧ 4 * s.ring.lengthUs = duration 40 0 ∧
     blockRangeFault { aBlock 1 with samples := 1, channels := 6 } s.ring.lengthUs = none) ∧
    (let s := updPool (·.take (aRecord 9 .held)) (submitting 2 101)
     classify 1 9 s = .duplicateInUse ∧ classify 1 100 s = .duplicateInHistory ∧
     classify 1 36 s = .stale ∧ classify 1 101 s = .inOrder ∧ s.pool.head = some 1 ∧
     (let u := updPool (fun p => { p with fresh := 8192 }) s
      u.pool.head = none ∧ classify 1 101 u = .inOrder) ∧
     latestAllowed s <
       (station 1 s).clk.convert ({ aBlock 101 with start := 10000001 } : BlockReq).start.toNat) := by
  decide +kernel

theorem witness_ABlockAheadIsHeld :
    (let s := submitting 1 165
     Wins 0 { tag := 7, req := .submitBlock (aBlock 165) } [] s ∧ s.sealMade = false ∧
     s.ring.state = .active ∧ slotOf (aBlock 165).slot = some 1 ∧
     (station 1 s).clk.state.aged = true ∧ blockRangeFault (aBlock 165) s.ring.lengthUs = none ∧
     classify 1 165 s = .ahead ∧ s.pool.head = some 0 ∧
     (station 1 s).clk.convert (aBlock 165).start.toNat ≤
       latestAllowed s ∧
     (station 1 s).sq.held.length < (station 1 s).sq.depth) := by decide +kernel

/-- What every clause of ADeliveredBlockIsFiled asks of a state and a block number. -/
abbrev CanFile (q : SeqNo) (s : State) : Prop :=
  Wins 0 { tag := 7, req := .submitBlock (aBlock q) } [] s ∧ s.sealMade = false ∧
  s.ring.state = .active ∧ s.ring.records ≠ [] ∧ slotOf (aBlock q).slot = some 1 ∧
  (station 1 s).clk.state.aged = true ∧ blockRangeFault (aBlock q) s.ring.lengthUs = none ∧
  s.pool.head = some 0 ∧
  (station 1 s).clk.convert (aBlock q).start.toNat ≤
    latestAllowed s ∧ (station 1 s).sq.held = []

/-- Station 1 before its first block. -/
def firstOf : State := updSeq 1 (fun q => { q with expected := none }) (submitting 2 5)

theorem witness_ADeliveredBlockIsFiled_hypotheses :
    ∀ e ∈ [((101 : SeqNo), submitting 2 101), (102, submitting 0 102), (166, submitting 2 166),
      (99, submitting 2 99), (5, firstOf)], CanFile e.1 e.2 := by decide +kernel

theorem witness_ADeliveredBlockIsFiled_classes :
    classify 1 101 (submitting 2 101) = .inOrder ∧ classify 1 102 (submitting 0 102) = .ahead ∧
    (station 1 (submitting 0 102)).sq.depth = 0 ∧
    (station 1 (submitting 0 102)).sq.expected = some 101 ∧
    classify 1 166 (submitting 2 166) = .restart ∧
    classify 1 99 (submitting 2 99) = .lateFill 2 ∧ classify 1 5 firstOf = .first := by
  decide +kernel

/-- A block that is delivered in its event, and one that is still in the list after it. -/
theorem witness_ADeliveredBlockIsFiled_replies :
    ((takeBlock 1 0 101 .inOrder (updPool (·.take (aRecord 101 .held)) (submitting 2 101))).2.find?
      fun e => e.1 == 0).isSome = true ∧
    classify 1 103 (submitting 2 103) = .ahead ∧
    (takeBlock 1 0 103 .ahead (updPool (·.take (aRecord 103 .held)) (submitting 2 103))).2 = [] := by
  decide +kernel

theorem witness_AFilingReachesOpenRecordsOnly :
    (let s := ringOf 0 [rec1 0 .opened .waiting, rec1 1 .sealed .passed] State.reset
     (s.ring.records.map (·.epoch)).Nodup ∧
     s.ring.epochOf ((some 9999999 : Option Nat).getD 0) = some 0 ∧
     rec1 0 .opened .waiting ∈ s.ring.records ∧ rec1 1 .sealed .passed ∈ s.ring.records ∧
     newest s = some (rec1 1 .sealed .passed)) := by decide +kernel

/-- Record 0 SEALED, records 1 and 2 OPEN, epochs of 10 s from 5 s on, at a time. -/
def filingAt (t : Nat) : State :=
  updRing (fun r => { r with origin := some 5000000 })
    (ringOf 0 [rec1 0 .sealed .passed, rec1 1 .opened .waiting, rec1 2 .opened .waiting]
      (atTime t State.reset))

/-- Where a filing goes: before the origin, into a record that is SEALED, into an OPEN one, on demand at the tolerance, beyond it, and above the last epoch. -/
theorem witness_AFilingReachesOpenRecordsOnly_targets :
    (let s := filingAt 25000000
     newest s = some (rec1 2 .opened .waiting) ∧
     s.ring.epochOf 4999999 = none ∧ s.ring.epochOf 5000000 = some 0 ∧
     findRecord 0 s = some (rec1 0 .sealed .passed) ∧
     s.ring.epochOf 34999999 = some 2 ∧ findRecord 2 s = some (rec1 2 .opened .waiting) ∧
     s.ring.epochOf 35000000 = some 3 ∧
     5000000 + 3 * s.ring.lengthUs = latestAllowed s ∧
     s.ring.epochOf 42949672965000000 = some 4294967296) ∧
    (let s := filingAt 24999999
     latestAllowed s < 5000000 + 3 * s.ring.lengthUs) ∧
    (chooseTarget 35000000 (filingAt 25000000)).2 =
      some { epoch := 3, late := false, misplaced := false } ∧
    (chooseTarget 35000000 (filingAt 24999999)).2 =
      some { epoch := 2, late := false, misplaced := true } ∧
    (chooseTarget 4999999 (filingAt 25000000)).2 =
      some { epoch := 1, late := true, misplaced := false } := by decide +kernel

/-! ## Witnesses: the ring -/

/-- START_RING from CP3, with the role held there and the time set, 25 s after power-on. -/
def starting (o : BitVec 56) (l : Byte) : State :=
  asks 3 (.startRing o l) (heldBy 3 (atTime 25000000
    (updTb (fun b => { b with timeSet := true }) State.reset)))

theorem witness_TheRingStartsAtTheEpochOfNow_refused_early :
    isSup 3 (asks 3 (.startRing 0 10) State.reset) = false ∧
    Wins 3 { tag := 7, req := .startRing 0 10 } [] (asks 3 (.startRing 0 10) State.reset) ∧
    (heldBy 3 State.reset).tb.timeSet = false ∧
    (ringOf 0 [] (starting 0 10)).ring.state = .active ∧
    Wins 3 { tag := 7, req := .startRing 0 10 } [] (ringOf 0 [] (starting 0 10)) := by decide +kernel

/-- What the clauses after the first refusals ask: the length out of range at either side, an origin off the second and one ahead of now, and a start at the epoch of now. -/
theorem witness_TheRingStartsAtTheEpochOfNow :
    (∀ s ∈ [starting 0 0, starting 0 121, starting 1 1, starting 26000000 120, starting 0 10,
        starting 25000000 1],
      isSup 3 s = true ∧ s.ring.state = .stopped ∧ s.tb.timeSet = true ∧ now s = 25000000) ∧
    Wins 3 { tag := 7, req := .startRing 25000000 1 } [] (starting 25000000 1) ∧
    (25000000 - 0) / (10 * 1000000) = 2 ∧
    4294967295 < (72057594037927935 - 0) / (1 * 1000000) := by decide +kernel

theorem witness_ABoundaryOpensUpToTheEpochOfNow :
    State.reset.ring.boundary = none ∧
    (let s := ringOf 0 [rec1 0 .opened .waiting] (atTime 9999999 State.reset)
     s.ring.boundary = some 10000000 ∧ now s < 10000000) ∧
    (let s := ringOf 0 [rec1 0 .opened .waiting] (atTime 10000000 State.reset)
     s.ring.boundary = some 10000000 ∧ 10000000 ≤ now s ∧
     newest s = some (rec1 0 .opened .waiting) ∧ s.ring.epochOf (now s) = some 1) := by
  decide +kernel

/-- A full ring whose oldest record is as given. -/
def fullRing (oldest : Record) : State :=
  ringOf 0 (oldest :: (List.range 47).map fun n => rec1 (n + 1) .opened .waiting) State.reset

/-- An opening below and at the last epoch, in a ring with room and in a full one, and an eviction of a record in each state. -/
theorem witness_ABoundaryOpensUpToTheEpochOfNow_openings :
    (newest (ringOf 0 [rec1 4294967295 .opened .waiting] State.reset)).map (·.epoch) =
      some 4294967295 ∧
    (newest (ringOf 0 [rec1 4294967294 .opened .waiting] State.reset)).map (·.epoch) =
      some 4294967294 ∧
    (∀ r ∈ [rec1 0 .opened .waiting, rec1 0 .sealed .passed, awaited],
      (fullRing r).ring.records.length = 48 ∧ (newest (fullRing r)).map (·.epoch) = some 47 ∧
      ((fullRing r).ring.records.map (·.epoch)).Nodup) ∧
    (let s := ringOf 0 [rec1 0 .opened .waiting] (atTime 42949672960000000 State.reset)
     s.ring.boundary = some 10000000 ∧ 10000000 ≤ now s ∧
     s.ring.epochOf (now s) = some 4294967296) := by decide +kernel

/-- A ring with record 0 OPEN and a station 1 of zone 0 WAITING in it, under a wait mode. -/
def endingIn (m : WaitMode) (t : Nat) : State :=
  ringOf 0 [rec1 0 .opened .waiting] (atTime t
    (updSup (fun v => { v with zones := put v.zones 0 { ZoneEntry.default with mode := m } }) State.reset))

theorem witness_TheEndEventSetsTheZoneDeadlines :
    (∀ m ∈ [WaitMode.fixed, .adaptive, .signalled, .noWait],
      let s := endingIn m 10000000
      s.sealMade = false ∧ (s.ring.records.map (·.epoch)).Nodup ∧
      rec1 0 .opened .waiting ∈ s.ring.records ∧ (zoneEntry 0 s).mode = m ∧
      (station 1 s).clk.zone = 0 ∧ s.ring.epochEnd 0 ≤ now s) ∧
    now (endingIn .fixed 9999999) < (endingIn .fixed 9999999).ring.epochEnd 0 := by decide +kernel

/-- A record that ends with station 1 passed, and station 1 RETIMING or not. -/
def sealable (retiming : Bool) : State :=
  updStation 1 (fun st => { st with retiming := retiming })
    (ringOf 0 [{ rec1 0 .opened .passed with ended := true }] State.reset)

/-- A seal that is made and one that is deferred. -/
theorem witness_TheEndEventSetsTheZoneDeadlines_seals :
    (let r : Record := { rec1 0 .opened .passed with ended := true }
     SealTerms r ∧ r ∈ (sealable false).ring.records ∧ ¬HeldByRetiming (sealable false) r ∧
     r ∈ (sealable true).ring.records ∧ HeldByRetiming (sealable true) r) := by decide +kernel

/-- Two SEALED records at the release point with an OPEN one above them, then none of them SEALED. -/
def releasable (x : RecState) : State :=
  ringOf 0 [rec1 0 x .passed, rec1 1 x .passed, rec1 2 .opened .waiting] State.reset

/-- A release of two records and of none, a retirement of one record, and a pool record that is in use and one that is free. -/
theorem witness_TheEndEventSetsTheZoneDeadlines_releases :
    releaseNext State.reset = none ∧
    (releaseNext (releasable .sealed) = some 0 ∧
      (findRecord 0 (releasable .sealed)).map (·.state) = some .sealed ∧
      (findRecord 1 (releasable .sealed)).map (·.state) = some .sealed ∧
      (findRecord (0 + 2) (releasable .sealed)).map (·.state) = some .opened) ∧
    (releaseNext (releasable .opened) = some 0 ∧
      (findRecord (0 + 0) (releasable .opened)).map (·.state) = some .opened) ∧
    ((releasable .released).ring.records =
        [rec1 0 .released .passed, rec1 1 .released .passed] ++ [rec1 2 .opened .waiting] ∧
      (∀ r ∈ [rec1 0 .released .passed, rec1 1 .released .passed],
        r.state = .released ∧ r.awaiting = 0) ∧
      ¬((rec1 2 .opened .waiting).state = .released)) ∧
    (((Pool.empty.take (aRecord 9 .held)).get 0).isSome = true ∧
      (Pool.empty.take (aRecord 9 .held)).get 1 = none) := by decide +kernel

/-- Record 0 with zone 0's deadline pending at 15 s. -/
def pending15 : Record :=
  { rec1 0 .opened .waiting with
    zones := Vector.ofFn fun _ => { deadline := .pending 15000000, extension := 0 } }

theorem witness_ExpiriesAndNoticesGiveUpTheWaiting :
    (let s := ringOf 0 [pending15] (atTime 15000000 State.reset)
     s.sealMade = false ∧ (s.ring.records.map (·.epoch)).Nodup ∧ pending15 ∈ s.ring.records ∧
     pending15.epoch = (0#32).toNat ∧ pending15.state = .opened ∧
     pending15.zones[(0 : ZoneId)].deadline = .pending 15000000 ∧ 15000000 ≤ now s) ∧
    now (atTime 14999999 State.reset) < 15000000 ∧
    (let s := { ringOf 0 [rec1 0 .opened .waiting] State.reset with
                notices := [{ slot := 1, status := .absentState }] }
     s.sealMade = false ∧ (s.ring.records.map (·.epoch)).Nodup ∧
     s.notices = [{ slot := 1, status := .absentState }]) := by decide +kernel

/-- A ZONE_FLUSHED of zone 0 waiting on CP0 under a wait mode. -/
def flushing (m : WaitMode) (z : Byte) (t : BitVec 56) : State :=
  asks 0 (.zoneFlushed z t) (endingIn m 0)

theorem witness_AFlushGivesUpTheZoneUpToItsTime :
    Wins 0 { tag := 7, req := .zoneFlushed 8 0 } [] (flushing .signalled 8 0) ∧ zoneOf 8 = none ∧
    zoneOf 0 = some 0 ∧ zoneOf 7 = some 7 ∧
    Wins 0 { tag := 7, req := .zoneFlushed 0 0 } [] (asks 0 (.zoneFlushed 0 0) State.reset) ∧
    State.reset.ring.state = .stopped ∧
    (∀ m ∈ [WaitMode.fixed, .signalled],
      let s := flushing m 0 10000000
      Wins 0 { tag := 7, req := .zoneFlushed 0 10000000 } [] s ∧ s.sealMade = false ∧
      (s.ring.records.map (·.epoch)).Nodup ∧ s.ring.state = .active ∧ (zoneEntry 0 s).mode = m ∧
      s.ring.epochEnd 0 = (10000000#56).toNat) := by decide +kernel

/-! ## Witnesses: re-timing -/

/-- A re-time of station 1 over the pool records listed, with one block in pool record 0, filed in record 0 in the state given. -/
def retimingOver (l : List (Nat × SeqNo)) (st : RecState) (a : Option Nat) (b : Block) : State :=
  let run : Running := { slot := 1, target := 5, snapshot := l, counts := .zero, restarts := 0 }
  let s := ringOf 0 [{ rec1 0 st .waiting with blocks := [0] }] (stationIs 1 .locked a State.reset)
  updPool (·.take b) { s with retime := { queue := [2], running := some run } }

/-- The same with the one block still to come. -/
abbrev retimingIn : RecState → Option Nat → Block → State := retimingOver [(0, 100)]

theorem witness_ARetimeStartsAndStepsThroughItsSnapshot :
    State.reset.retime.queue = [] ∧
    (let s : State := { State.reset with retime := { queue := [1], running := none } }
     s.retime.running = none ∧ s.retime.queue = [1]) ∧
    (let s := retimingIn .opened none (aRecord 100 (.filed 0))
     s.sealMade = false ∧ (station 1 s).clk.anchor = none) ∧
    (let s := retimingIn .opened (some 0) (aRecord 101 (.filed 0))
     (station 1 s).clk.anchor.isSome = true ∧ block 1 s = none ∧
     block 0 s = some (aRecord 101 (.filed 0)) ∧ (aRecord 101 (.filed 0)).seq ≠ 100) ∧
    (let s := retimingIn .sealed (some 0) (aRecord 100 (.filed 0))
     block 0 s = some (aRecord 100 (.filed 0)) ∧ (aRecord 100 (.filed 0)).generation ≠ 5 ∧
     (findRecord 0 s).map (·.state) = some .sealed) ∧
    (let s := retimingIn .opened (some 0) (aRecord 100 (.filed 0))
     (findRecord 0 s).map (·.state) = some .opened ∧ newest s ≠ none ∧
     s.ring.epochOf ((station 1 s).clk.convert (aRecord 100 (.filed 0)).start) = some 0) := by
  decide +kernel

/-- Station 1 with one block, in pool record 0, filed in record 0, with a re-time queue and a running re-time. -/
def noticed (queue : List Slot) (running : Option Running) : State :=
  { updPool (·.take (aRecord 100 (.filed 0)))
      (ringOf 0 [{ rec1 0 .opened .waiting with blocks := [0] }]
        (stationIs 1 .locked (some 0) State.reset)) with
    retime := { queue := queue, running := running } }

/-- The running re-time of a station. -/
def runningOn (k : Slot) : Running :=
  { slot := k, target := 5, snapshot := [], counts := .zero, restarts := 0 }

/-- A notice for the running station, for a queued one, for one with a block in an OPEN record, and for one without. -/
theorem witness_ARetimeStartsAndStepsThroughItsSnapshot_notices :
    (noticed [] (some (runningOn 1))).retime.running = some (runningOn 1) ∧
    (runningOn 1).slot = 1 ∧ (runningOn 2).slot ≠ 1 ∧ (1 : Slot) ∈ (noticed [1] none).retime.queue ∧
    ((1 : Slot) ∉ (noticed [] none).retime.queue ∧ (noticed [] none).retime.running = none ∧
      (noticed [] none).ring.state = .active ∧
      ∃ r ∈ (noticed [] none).ring.records, r.state = .opened ∧
        ∃ i ∈ r.blocks, ∃ b ∈ block i (noticed [] none), b.slot = 1) ∧
    ((noticed [] (some (runningOn 2))).retime.running.isSome = true ∧
      (1 : Slot) ∉ (noticed [] (some (runningOn 2))).retime.queue) ∧
    (∀ r ∈ (noticed [] none).ring.records, ∀ i ∈ r.blocks, ∀ b ∈ (block i (noticed [] none)).toList,
      b.slot ≠ 2) := by decide +kernel

/-- Where a re-placement goes, by the epoch of the new network start: its own, an OPEN record, a SEALED one, before the origin, on demand at the tolerance, beyond it, and on demand with its own record evicted. -/
theorem witness_ARetimeStartsAndStepsThroughItsSnapshot_places :
    (let s := filingAt 25000000
     s.ring.epochOf 15000000 = some 1 ∧ s.ring.epochOf 25000000 = some 2 ∧
     (chooseReplacement 1 15000000 s).2 = (1, .updated) ∧
     (chooseReplacement 1 25000000 s).2 = (2, .moved) ∧
     (chooseReplacement 1 5000000 s).2 = (1, .carried) ∧
     (chooseReplacement 2 4999999 s).2 = (1, .carried) ∧
     (chooseReplacement 1 35000000 s).2 = (3, .moved)) ∧
    (chooseReplacement 1 35000000 (filingAt 24999999)).2 = (1, .misplaced) ∧
    (let s := atTime 470000000 (fullRing (rec1 0 .opened .waiting))
     s.ring.epochOf 480000000 = some 48 ∧ (findRecord 0 (openNext s)).isSome = false ∧
     0 + 48 * s.ring.lengthUs = latestAllowed s) := by decide +kernel

theorem witness_TheFinalStepReckonsTheCoverageAfresh :
    ((retimingIn .opened (some 0) (aRecord 100 (.filed 0))).sealMade = false ∧
      (retimingIn .opened (some 0) (aRecord 100 (.filed 0))).retime.running.map (·.snapshot) =
        some [(0, 100)]) ∧
    ((retimingOver [] .opened (some 0) (aRecord 100 (.filed 0))).sealMade = false ∧
      (retimingOver [] .opened (some 0) (aRecord 100 (.filed 0))).retime.running.map (·.snapshot) =
        some []) := by decide +kernel

/-! ## Witnesses: delivery groups -/

/-- Group 1 with a state, its cursor and its stall deadline. -/
def groupIs (x : GroupState) (c stall : Option Nat) (s : State) : State :=
  updGroup 1 (fun _ => { state := x, cursor := c, lastAck := some 0, stall := stall }) s

/-- A group request on CP1 at a ring with record 0 released and awaited, and record 1 OPEN. -/
def grouping (r : ServiceReq) (x : GroupState) (c : Option Nat) : State :=
  asks 1 r (ringOf 1 [awaited, rec1 1 .opened .waiting] (groupIs x c (some 5) State.reset))

theorem witness_GroupRequestsAreRefusedInOrder :
    (∀ e ∈ [(Instr.attachGrant, ServiceReq.attach 4), (.detachGrant, .detach 4),
        (.fetchEpochGrant, .fetchEpoch 4), (.fetchPageGrant, .fetchPage 4 0 0),
        (.ackEpochGrant, .ackEpoch 4 0)],
      Wins 1 { tag := 7, req := e.2 } [] (grouping e.2 .detached none)) ∧
    groupOf 4 = none ∧ groupOf 3 = some 3 ∧ groupOf 0 = some 0 ∧
    (rightsOf 1 State.reset).subscriptions.getLsbD 3 = false ∧
    (rightsOf 1 State.reset).subscriptions.getLsbD 1 = true ∧
    (∀ e ∈ [(Instr.detachGrant, ServiceReq.detach 1), (.fetchEpochGrant, .fetchEpoch 1),
        (.fetchPageGrant, .fetchPage 1 0 0), (.ackEpochGrant, .ackEpoch 1 0)],
      Wins 1 { tag := 7, req := e.2 } [] (grouping e.2 .detached none) ∧ e.1 ≠ .attachGrant ∧
        (group 1 (grouping e.2 .detached none)).state ≠ .active) := by decide +kernel

theorem witness_AttachJoinsTheReleasedRecords :
    (∀ x ∈ [GroupState.active, .detached, .stalled],
      Wins 1 { tag := 7, req := .attach 1 } [] (grouping (.attach 1) x (some 0)) ∧
      (grouping (.attach 1) x (some 0)).ring.state = .active ∧
      (group 1 (grouping (.attach 1) x (some 0))).state = x) ∧
    ((grouping (.attach 1) .detached none).ring.records.map (·.epoch)).Nodup ∧
    (grouping (.attach 1) .detached none).ring.records.filter (fun r => decide (r.state = .released)) =
      [awaited] ∧
    Wins 1 { tag := 7, req := .attach 1 } [] (asks 1 (.attach 1) State.reset) ∧
    (let s := asks 1 (.attach 1) (ringOf 1 [rec1 1 .opened .waiting] State.reset)
     Wins 1 { tag := 7, req := .attach 1 } [] s ∧ s.ring.state = .active ∧
     (group 1 s).state ≠ .active ∧
     s.ring.records.filter (fun r => decide (r.state = .released)) = []) := by decide +kernel

theorem witness_DetachAndStallLeaveEveryAwaitingSet :
    (let s := grouping (.detach 1) .active (some 0)
     Wins 1 { tag := 7, req := .detach 1 } [] s ∧ (group 1 s).state = .active ∧
     (rightsOf 1 s).subscriptions.getLsbD 1 = true) ∧
    (group 1 State.reset).state ≠ .active ∧ (group 1 State.reset).stall = none ∧
    (group 1 (groupIs .active (some 0) (some 5) (atTime 4 State.reset))).stall = some 5 ∧
    now (atTime 4 State.reset) < 5 ∧ 5 ≤ now (atTime 5 State.reset) ∧
    (group 1 (groupIs .active (some 0) (some 5) (atTime 5 State.reset))).state = .active := by
  decide +kernel

theorem witness_FetchesReadReleasedRecords :
    groupOf 1 = some 1 ∧
    (∀ c ∈ [0, 1, 2],
      let s := grouping (.fetchEpoch 1) .active (some c)
      Wins 1 { tag := 7, req := .fetchEpoch 1 } [] s ∧ (group 1 s).state = .active ∧
      (group 1 s).cursor = some c ∧
      (findRecord c s).map (·.state) = [some RecState.released, some .opened, none][c]?.join) ∧
    (let s := grouping (.fetchPage 1 0 0) .active (some 0)
     Wins 1 { tag := 7, req := .fetchPage 1 0 0 } [] s ∧ findRecord 0 s = some awaited ∧
     awaited.awaiting.getLsbD 1 = true ∧ findRecord 2 s = none ∧
     (findRecord 1 s).map (·.state) = some .opened ∧ awaited.blocks = []) := by decide +kernel

theorem witness_AnAckMovesTheCursor :
    (∀ n ∈ [(0 : Nat), 1, 2],
      let s := grouping (.ackEpoch 1 (BitVec.ofNat 32 n)) .active (some n)
      Wins 1 { tag := 7, req := .ackEpoch 1 (BitVec.ofNat 32 n) } [] s ∧
      (group 1 s).state = .active ∧ (group 1 s).cursor = some n ∧
      (findRecord n s).map (·.state) = [some RecState.released, some .opened, none][n]?.join) ∧
    (group 1 (grouping (.ackEpoch 1 3) .active (some 0))).cursor ≠ some (3#32).toNat := by
  decide +kernel

/-- The groups whose stall deadline the last clauses speak of. -/
theorem witness_AnAckMovesTheCursor_stalls :
    (∀ n ∈ [(0 : Nat), 1, 2],
      let s := grouping (.attach 1) .active (some n)
      (group 1 s).state = .active ∧ (group 1 s).cursor = some n ∧
      (findRecord n s).map (·.state) = [some RecState.released, some .opened, none][n]?.join) ∧
    (group 0 State.reset).state ≠ .active := by decide +kernel

/-! ## Witnesses: network reset and network shape -/

theorem witness_ANetworkResetClearsByOwner :
    Wins 3 { tag := 7, req := .networkReset } [] (asks 3 .networkReset State.reset) ∧
    isSup 3 (asks 3 .networkReset State.reset) = false ∧
    (let s := asks 3 .networkReset (heldBy 3 (stationIs 1 .locked (some 0) State.reset))
     Wins 3 { tag := 7, req := .networkReset } [] s ∧ isSup 3 s = true ∧
     s.sup.quiesce = .running ∧ s.sup.committed = none) ∧
    (let s := updSup (fun v => { v with committed := some .default })
       (asks 3 .networkReset (heldBy 3 State.reset))
     Wins 3 { tag := 7, req := .networkReset } [] s ∧ isSup 3 s = true ∧
     s.sup.quiesce = .running ∧ s.sup.committed = some .default) ∧
    (let s := quiesceIs (.quiescing 3) (asks 3 .networkReset (heldBy 3 State.reset))
     Wins 3 { tag := 7, req := .networkReset } [] s ∧ isSup 3 s = true ∧
     s.sup.quiesce ≠ .running) := by decide +kernel

/-- QUIESCE_END(APPLY) from the holder on CP3 with a staged set. -/
def applying (l : List ShapeItem) : State :=
  updSup (fun v => { v with staged := l })
    (quiesceIs (.quiesced 9) (asks 3 .quiesceEndApply (heldBy 3 State.reset)))

theorem witness_AnApplyIsValidatedThenEndsTheQuiesce :
    Wins 3 { tag := 7, req := .quiesceEndApply } [] (asks 3 .quiesceEndApply State.reset) ∧
    isSup 3 (asks 3 .quiesceEndApply State.reset) = false ∧
    (let s := asks 3 .quiesceEndApply (heldBy 3 State.reset)
     Wins 3 { tag := 7, req := .quiesceEndApply } [] s ∧ isSup 3 s = true ∧
     s.sup.quiesce.isQuiesced = false) ∧
    (∀ l ∈ [[], [ShapeItem.addStation 1 5 0 2 .notify], [.removeStation 1]],
      Wins 3 { tag := 7, req := .quiesceEndApply } [] (applying l) ∧
      (applying l).sealMade = false ∧ isSup 3 (applying l) = true ∧
      (applying l).sup.quiesce = .quiesced 9) ∧
    firstInvalid 1 (occupancy (applying [])) [.addStation 1 5 0 2 .notify] = none ∧
    firstInvalid 1 (occupancy (applying [])) [.removeStation 1] = some (1, .slotVacant) := by
  decide +kernel

/-- An item that is invalid only after the item before it, and one with both faults. -/
theorem witness_AnApplyIsValidatedThenEndsTheQuiesce_items :
    let o := occupancy State.reset
    firstInvalid 1 o [.addStation 1 5 0 2 .notify, .addStation 2 5 0 2 .notify] =
      some (2, .codeInUse) ∧
    firstInvalid 1 o [.addStation 1 5 0 2 .notify, .addStation 1 5 0 2 .notify] =
      some (2, .slotInUse) ∧
    firstInvalid 1 o [.addStation 1 5 0 2 .notify, .removeStation 1, .addStation 2 5 0 2 .notify] =
      none := by
  decide +kernel

theorem witness_ShapeItemsDoWhatTheirOwnersState :
    (station 1 State.reset).sq.held.length ≤ 0 ∧ (2 : Slot) ≠ 1 ∧
    (let o : Occupancy := put (occupancy State.reset) 1 (some 5)
     o[(1 : Slot)].isSome = true ∧ o[(2 : Slot)] = none ∧ (∃ j : Slot, o[j] = some 5) ∧
     ∀ j : Slot, o[j] ≠ some 6) := by decide +kernel

/-! ## Witnesses: supervision -/

theorem witness_TheRoleIsClaimedAndReleased :
    Takes x3 State.reset ∧ (rightsOf 3 State.reset).supervise = true ∧
    State.reset.sup.role = none ∧ Takes x3 (heldBy 3 State.reset) ∧
    (rightsOf 3 (heldBy 3 State.reset)).supervise = true ∧
    (heldBy 3 State.reset).sup.role =
      some { port := 3, challenge := 5, windowStart := 0, windowLength := 1000000 } ∧
    (heldBy 2 State.reset).sup.role =
      some { port := 2, challenge := 5, windowStart := 0, windowLength := 1000000 } := by
  decide +kernel

theorem witness_CheckInsAreJudgedByTheWindow :
    (heldBy 3 State.reset).sup.role =
      some { port := 3, challenge := 5, windowStart := 0, windowLength := 1000000 } ∧
    Takes x3 (heldBy 3 State.reset) ∧ (rightsOf 3 (heldBy 3 State.reset)).supervise = true ∧
    now (atTime 499999 State.reset) - 0 < 1000000 / 2 ∧
    1000000 / 2 ≤ now (atTime 500000 State.reset) - 0 ∧
    goodResponse 5 5 0 = true ∧ goodResponse 5 4 0 = true ∧ goodResponse 5 6 0 = false ∧
    0 + 1000000 ≤ now (atTime 1000000 State.reset) ∧
    now (atTime 999999 State.reset) < 0 + 1000000 := by decide +kernel

theorem witness_AQuiesceIsGrantedWhenNothingIsPending :
    Supervises x3 (heldBy 3 State.reset) ∧ (heldBy 3 State.reset).sup.quiesce = .running ∧
    ((∀ p : PortId, ∀ q ∈ (port p (heldBy 3 State.reset)).queue, reqClass q.req ≠ .submit) ∧
      (heldBy 3 State.reset).retime.queue = [] ∧ (heldBy 3 State.reset).retime.running = none) ∧
    (let s := asks 0 (.zoneFlushed 0 0) (heldBy 3 State.reset)
     Supervises x3 s ∧ s.sup.quiesce = .running ∧
     ∃ q ∈ (port 0 s).queue, reqClass q.req = .submit) ∧
    Supervises x3 (quiesceIs (.quiescing 3) (heldBy 3 State.reset)) ∧
    (quiesceIs (.quiescing 3) (heldBy 3 State.reset)).sup.quiesce = .quiescing 3 ∧
    (quiesceIs (.quiesced 9) (heldBy 3 State.reset)).sup.quiesce = .quiesced 9 := by
  decide +kernel

theorem witness_AQuiesceEndsByDiscardOrExpiry :
    Takes x3 State.reset ∧ (rightsOf 3 State.reset).supervise = true ∧
    isSup 3 State.reset = false ∧
    Supervises x3 (heldBy 3 State.reset) ∧
    Supervises x3 (quiesceIs (.quiesced 9) (heldBy 3 State.reset)) ∧
    (quiesceIs (.quiesced 9) (heldBy 3 State.reset)).sup.quiesce = .quiesced 9 ∧
    9 ≤ now (atTime 9 State.reset) ∧ now (atTime 8 State.reset) < 9 ∧
    State.reset.sup.quiesce.isQuiesced = false := by decide +kernel

/-- A SET_RIGHTS of a port. -/
def rightsReq (p : Byte) : RightsReq :=
  { port := p, rights := 7, subscriptions := 15, credit := 8, framePolicy := 1, violationPolicy := 1 }

theorem witness_ShapeItemsAndRightsAreCheckedThenKept :
    (let s := quiesceIs (.quiesced 9) (heldBy 3 State.reset)
     Supervises x3 s ∧ s.sup.quiesce.isQuiesced = true ∧ s.sup.staged.length < 32) ∧
    (let s := updSup (fun v => { v with staged := List.replicate 32 (.removeStation 1) })
       (quiesceIs (.quiesced 9) (heldBy 3 State.reset))
     Supervises x3 s ∧ 32 ≤ s.sup.staged.length) ∧
    parseShape (.unknown 9) = .error 0 ∧ parseShape (.removeStation 64) = .error 1 ∧
    parseShape (.addStation 63 9 7 6 2) = .ok (.addStation 63 9 7 6 .quarantine) ∧
    parseShape (.setZone 0 0 1 1 3601 1) = .error 5 ∧
    parseRights (rightsReq 4) = .error 0 ∧
    (parseRights (rightsReq 3)).toOption.map (·.1) = some 3 ∧
    (parseRights (rightsReq 2)).toOption.map (·.1) = some 2 := by decide +kernel

/-- The range checks at both sides of every limit. -/
theorem witness_ShapeItemsAndRightsAreCheckedThenKept_limits :
    parseShape (.addStation 64 9 7 6 2) = .error 1 ∧ parseShape (.addStation 63 9 8 6 2) = .error 4 ∧
    parseShape (.addStation 63 9 7 7 2) = .error 5 ∧ parseShape (.addStation 63 9 7 6 3) = .error 6 ∧
    parseShape (.setStation 64 7 6 2) = .error 1 ∧ parseShape (.setStation 63 8 6 2) = .error 2 ∧
    parseShape (.setStation 63 7 7 2) = .error 3 ∧ parseShape (.setStation 63 7 6 3) = .error 4 ∧
    parseShape (.setStation 63 7 6 2) = .ok (.setStation 63 7 6 .quarantine) ∧
    parseShape (.removeStation 63) = .ok (.removeStation 63) ∧
    parseShape (.setZone 8 0 1 1 1 1) = .error 1 ∧ parseShape (.setZone 7 4 1 1 1 1) = .error 2 ∧
    parseShape (.setZone 7 3 255 255 3600 255) = .ok (.setZone 7
      { mode := .noWait, budget := 255, extension := 255, cap := 3600, hold := 255 }) ∧
    parseRights { rightsReq 3 with credit := 0 } = .error 3 ∧
    parseRights { rightsReq 3 with credit := 9 } = .error 3 ∧
    parseRights { rightsReq 3 with framePolicy := 2 } = .error 4 ∧
    parseRights { rightsReq 3 with violationPolicy := 2 } = .error 5 ∧
    parseRights { rightsReq 3 with rights := 8 } = .error 1 ∧
    parseRights { rightsReq 3 with subscriptions := 16 } = .error 2 ∧
    parseRights (rightsReq 3) = .ok (3,
      { submit := true, consume := true, supervise := true, subscriptions := 15, credit := 8,
        framePolicy := .halt, violation := .absorb }) := by decide +kernel

theorem witness_TuningIsStagedDroppedAndCommitted :
    Supervises x3 (heldBy 3 State.reset) ∧ tuningRange 0 = none ∧ tuningRange 29 = none ∧
    tuningRange 9 = some (2, 7) ∧ (heldBy 3 State.reset).sup.stagedTuning = none ∧
    (let s := updSup (fun v => { v with stagedTuning := some .default }) (heldBy 3 State.reset)
     Supervises x3 s ∧ s.sup.stagedTuning = some .default ∧ s.ring.state = .stopped ∧
     (ringOf 0 [rec1 0 .opened .waiting] s).ring.state = .active ∧
     Supervises x3 (ringOf 0 [rec1 0 .opened .waiting] s)) := by decide +kernel

/-- A taking with no committed set, with a free role, with a holder below the new threshold, and with one at it. -/
theorem witness_TuningIsStagedDroppedAndCommitted_taken :
    State.reset.sup.committed = none ∧ State.reset.sup.role = none ∧
    (heldBy 3 State.reset).sup.role.isSome = true ∧
    (heldBy 3 State.reset).sup.errors < Tuning.default.checkinThreshold ∧
    (let t : Tuning := { Tuning.default with checkinThreshold := 1 }
     let s := updSup (fun v => { v with committed := some t, errors := 1 }) (heldBy 3 State.reset)
     s.sup.committed = some t ∧ s.sup.role.isSome = true ∧ t.checkinThreshold ≤ s.sup.errors) ∧
    State.reset.sealMade = false ∧ ({ State.reset with sealMade := true } : State).sealMade = true := by
  decide +kernel

/-! ## Witnesses: attention, ports and timers -/

theorem witness_CausesAreMaskedAndAcknowledged :
    Takes x0 State.reset ∧ causeOf 21 = none ∧ causeOf 20 = some 20 ∧ causeOf 0 = some 0 ∧
    (port 0 State.reset).causes[(0 : Fin 21)].pending = true ∧
    (port 0 State.reset).causes[(0 : Fin 21)].count = 1 ∧
    (port 0 State.reset).causes[(20 : Fin 21)].pending = false := by decide +kernel

/-- A raising whose count goes from 255 to 0, and the ports that a raising with the supervisor reaches. -/
theorem witness_CausesAreMaskedAndAcknowledged_raised :
    (let p : PortState := { PortState.initial with
       causes := put PortState.initial.causes 6 { pending := false, count := 255, mask := false } }
     (p.raise .frameError).causes[(6 : Fin 21)] = { pending := true, count := 0, mask := false }) ∧
    (List.finRange 4).map (fun p =>
        (port p (raiseWithSup 1 .stationState (heldBy 3 State.reset))).causes[(16 : Fin 21)].count) =
      [0, 1, 0, 1] ∧
    isSup 3 (heldBy 3 State.reset) = true ∧ isSup 3 State.reset = false := by decide +kernel

theorem witness_PortsResumeAndReset :
    HasPlace x0 (haltedPort 0 State.reset) ∧ isSup 0 State.reset = false ∧
    isSup 3 (heldBy 3 State.reset) = true := by decide +kernel

/-- Station 1 LOCKED in zone 0 with one block held since time 0. -/
def holding (c : ClockState) (t : Nat) : State :=
  atTime t (updPool (·.take (aRecord 103 .held)) (updSeq 1 (fun q => { q with
    held := [0], heldSince := some 0, expected := some 101 }) (stationIs 1 c (some 0) State.reset)))

theorem witness_SilenceAndHoldExpireOnTime :
    (station 1 State.reset).clk.state = .vacant ∧ (station 1 State.reset).sq.held = [] ∧
    (let s := { stationIs 1 .locked (some 0) State.reset with silenceClock := 120000000 }
     (station 1 s).clk.state ≠ .vacant ∧ (station 1 s).sq.silent = false ∧
     s.sup.quiesce = .running ∧
     (tuning s).silenceLimit * 1000000 = s.silenceClock - (station 1 s).sq.silenceMark) ∧
    (station 1 (holding .locked 0)).sq.held = [0] ∧
    (station 1 (holding .locked 0)).sq.heldSince = some 0 ∧
    (zoneEntry (station 1 (holding .locked 0)).clk.zone (holding .locked 0)).hold * 1000000 =
      now (holding .locked 2000000) - 0 ∧
    now (holding .locked 1999999) - 0 < 2000000 ∧
    (station 1 (holding .quarantined 2000000)).clk.state = .quarantined ∧
    (station 1 (holding .locked 2000000)).clk.state.aged = true ∧
    block 0 (holding .locked 2000000) = some (aRecord 103 .held) ∧
    (aRecord 103 .held).slot = 1 ∧ (station 1 (holding .locked 2000000)).sq.expected = some 101 ∧
    (holding .locked 2000000).sealMade = false := by decide +kernel

/-- A list that a depth of 1 leaves as it is and that a depth of 0 shortens, of a station whose list is frozen and of one whose list is not. -/
theorem witness_ShapeItemsDoWhatTheirOwnersState_depths :
    (∀ c ∈ [ClockState.acquiring, .quarantined, .locked, .unreliable],
      (station 1 (holding c 9)).clk.state = c ∧ (station 1 (holding c 9)).sq.held.length = 1) ∧
    (let s := updSeq 1 (fun q => { q with depth := 0 }) (holding .locked 9)
     (station 1 s).sq.depth < (station 1 s).sq.held.length) := by decide +kernel

/-- A drain whose front block is expected and one whose front block is not, a hole given up, and a block's place before and behind a held one. -/
theorem witness_ADeliveredBlockIsFiled_lists :
    (station 1 State.reset).sq.held = [] ∧
    (let s := holding .locked 9
     (station 1 s).sq.held = 0 :: [] ∧ block 0 s = some (aRecord 103 .held) ∧
     (station 1 s).sq.expected = some 101 ∧ (aRecord 103 .held).seq ≠ 101 ∧
     (station 1 s).sq.depth ≠ 0 ∧
     ((103 : SeqNo) - 101).toNat ≤ ((105 : SeqNo) - 101).toNat ∧
     ((102 : SeqNo) - 101).toNat < ((103 : SeqNo) - 101).toNat) ∧
    (let s := updSeq 1 (fun q => { q with expected := some 103 }) (holding .locked 9)
     (station 1 s).sq.held = 0 :: [] ∧ block 0 s = some (aRecord 103 .held) ∧
     (station 1 s).sq.expected = some (aRecord 103 .held).seq) := by decide +kernel

/-! ## Witnesses: the invariants and the frames -/

/-- A ring with record 0 RELEASED and awaited by group 1, record 1 OPEN, and an ACK_EPOCH of group 1 waiting on CP1. -/
def ringRunning : State :=
  updRing (fun r => { r with boundary := some 20000000 }) (grouping (.ackEpoch 1 0) .active (some 0))

theorem witness_TheRingStaysConsecutive : RingConsistent ringRunning := by decide +kernel

theorem witness_ReleaseStaysInEpochOrder : ReleaseConsistent ringRunning := by decide +kernel

theorem witness_GroupsFollowTheRing : GroupsConsistent ringRunning := by decide +kernel

theorem witness_PortsStayBalanced : PortsBalanced ringRunning ∧ MasksStand ringRunning := by decide +kernel

theorem witness_ThePoolKeepsItsForm :
    PoolConsistent (updPool (·.take (aRecord 100 .held)) ringRunning) := by decide +kernel

theorem witness_SupervisionStaysConsistent :
    SupervisionConsistent (heldBy 3 ringRunning) := by decide +kernel

theorem witness_RangesAreKept : TablesInRange ringRunning ∧ TimeInRange ringRunning := by
  refine ⟨⟨?_, ?_, ?_, ?_, ?_, ?_⟩, ?_⟩
  · repeat' apply And.intro
    all_goals decide +kernel
  · intro t h; cases h
  · intro t h; cases h
  · decide +kernel
  · decide +kernel
  · decide +kernel
  · decide +kernel

/-- The step that the invariants speak of is taken: record 0 retires and group 1 moves on. -/
theorem witness_a_step_of_the_running_ring :
    (ackEpochOwner 1 1 0 ringRunning).st.ring.records.map (·.epoch) = [1] ∧
    (group 1 (ackEpochOwner 1 1 0 ringRunning).st).cursor = some 1 := by decide +kernel

/-- Record 0 RELEASED and awaited by group 1, record 1 SEALED, record 2 OPEN, with an ACK_EPOCH of group 1 for record 1 waiting on CP1. -/
def sealedRing : State :=
  asks 1 (.ackEpoch 1 1) (groupIs .active (some 0) (some 5)
    (updRing (fun r => { r with boundary := some 30000000 })
      (ringOf 1 [awaited, rec1 1 .sealed .passed, rec1 2 .opened .waiting] State.reset)))

theorem witness_SealedRecordsStayAsTheyAre :
    RingConsistent sealedRing ∧ rec1 1 .sealed .passed ∈ sealedRing.ring.records ∧
    awaited ∈ sealedRing.ring.records ∧
    (ackEpochOwner 1 1 1 sealedRing).st.ring.records = sealedRing.ring.records := by decide +kernel

theorem witness_FramesAreReadBackWhole :
    (Instr.ackEpoch x0 1 0x01020304).wf = true ∧
    (Instr.ackEpoch x0 1 0x01020304).request = some (x0, 8) ∧
    frameCommand 0 (((Instr.ackEpoch { x0 with clocked := 10 } 1 0x01020304).frame).getD []) =
      .ackEpoch { x0 with clocked := 10 } 1 0x01020304 := by decide +kernel

/-- The same frame with three bytes of other values clocked after it. -/
theorem witness_FramesAreReadBackWhole_with_bytes_after :
    (let i := Instr.ackEpoch { x0 with clocked := 13 } 1 0x01020304
     let head := frameHead { x0 with clocked := 13 } (BitVec.ofNat 8 8) i.body
     i.wf = true ∧ (head ++ bytes16 (crc16 head) ++ [0xFF, 0x01, 0x80]).length = 13 ∧
     frameCommand 0 (head ++ bytes16 (crc16 head) ++ [0xFF, 0x01, 0x80]) = i) := by decide +kernel

/-- A transaction of each other sort: no byte, two bytes, a body cut short, a CRC that does not match, a kind above 33, a poll with a body, and a STAGE_SHAPE with spare bytes. -/
theorem witness_FramesAreReadBackWhole_other_bytes :
    let sent (head : List Byte) : List Byte := head ++ bytes16 (crc16 head)
    frameCommand 0 [] = .transactionWithoutRequest 0 0 ∧
    frameCommand 0 [1, 2] = .frameError 0 2 .truncated ∧
    frameCommand 0 [4, 9, 1, 0, 0] = .frameError 0 5 .truncated ∧
    frameCommand 0 [4, 9, 0, 0, 0] = .frameError 0 5 .corrupt ∧
    [0, 0] ≠ bytes16 (crc16 [4, 9, 0]) ∧
    frameCommand 0 (sent [34, 9, 0]) =
      .unknownRequestKind { port := 0, tag := 9, clocked := 5 } 34 0 ∧
    frameCommand 0 (sent [0, 9, 1, 0]) =
      .unknownRequestKind { port := 0, tag := 9, clocked := 6 } 0 1 ∧
    frameCommand 0 (sent [21, 9, 8, 2, 63, 1, 2, 3, 4, 5, 6]) =
      .stageShape { port := 0, tag := 9, clocked := 13 } (.removeStation 63) := by decide +kernel

end Sys2Proof.Tests
end

section
/-! PROOFS. The station clock models: RELEASE_STATION_GRANT (R36) and the anchoring report (R19, R22). First what the scheduler's part of a grant leaves for the owner to read, then one rule per owner, then the two statements. -/

namespace Sys2Proof.Machine

open Sys2Proof.Safety

/-! ## What the scheduler's part of a grant leaves -/

@[simp] theorem station_grantsHead (k : Slot) (p : PortId) (n : Option Slot) (s : State) :
    station k (grantsHead p n s) = station k s := rfl
@[simp] theorem now_grantsHead (p : PortId) (n : Option Slot) (s : State) :
    now (grantsHead p n s) = now s := rfl
@[simp] theorem tuning_grantsHead (p : PortId) (n : Option Slot) (s : State) :
    tuning (grantsHead p n s) = tuning s := rfl
@[simp] theorem isSup_grantsHead (q p : PortId) (n : Option Slot) (s : State) :
    isSup q (grantsHead p n s) = isSup q s := rfl

/-- The winning head is answered as its owner answers once the scheduler has taken it (R163, R166). -/
theorem grantHead_of_answer {α : Type} {sel : ServiceReq → Option α}
    {owner : PortId → α → State → Answer} {s : State} {p : PortId} {q : Queued}
    {rest : List Queued} {a : α} {ans : Answer} (w : Wins p q rest s) (h : sel q.req = some a)
    (ho : owner p a (grantsHead p (reqNames q.req) s) = ans) :
    grantHead sel owner s = granted p q.tag (reqKind q.req) ans.code ans.data ans.st := by
  subst ho
  exact grantHead_wins w h

/-! ## Requests of the supervisor (R155) -/

theorem ifSupervisor_of_isSup {p : PortId} {s : State} (owner : State → Answer)
    (h : isSup p s = true) : ifSupervisor p owner s = owner s := if_pos h

theorem ifSupervisor_of_not_isSup {p : PortId} {s : State} (owner : State → Answer)
    (h : isSup p s = false) : ifSupervisor p owner s = refuse .notSupervisor s := by
  simp [ifSupervisor, h]

/-! ## RELEASE_STATION (R36) -/

theorem releaseStationOwner_of_no_slot {b : Byte} (s : State) (h : slotOf b = none) :
    releaseStationOwner b s = refuse .badRequest s [.num 1 0] := by
  simp only [releaseStationOwner, h]

theorem releaseStationOwner_of_vacant {b : Byte} {k : Slot} {s : State} (h : slotOf b = some k)
    (hc : (station k s).clk.state = .vacant) :
    releaseStationOwner b s = refuse .noStation s := by
  simp only [releaseStationOwner, h, hc]

/-- A QUARANTINED station is released: ACQUIRING, its model cleared, its generation kept, last aged now. -/
theorem releaseStationOwner_of_quarantined {b : Byte} {k : Slot} {s : State}
    (h : slotOf b = some k) (hc : (station k s).clk.state = .quarantined) :
    releaseStationOwner b s =
      { st := updClk k (fun c => { c with
          state := .acquiring, anchor := none, offset := 0, drift := 0, uncertainty := 0,
          acquisition := 0, lockOff := 0, faults := 0, candidate := none,
          lastAccepted := none, lastAged := now s }) s
        code := .done, data := [] } := by
  simp only [releaseStationOwner, h, hc, ClockHalf.released, ClockHalf.clearModel]

/-- A station that is present but not QUARANTINED has nothing to be released from. -/
theorem releaseStationOwner_of_not_quarantined {b : Byte} {k : Slot} {s : State}
    (h : slotOf b = some k) (hv : (station k s).clk.state ≠ .vacant)
    (hq : (station k s).clk.state ≠ .quarantined) :
    releaseStationOwner b s = refuse .wrongState s := by
  simp only [releaseStationOwner, h]
  cases hc : (station k s).clk.state with
  | vacant => exact absurd hc hv
  | quarantined => exact absurd hc hq
  | acquiring => rfl
  | locked => rfl
  | tracking => rfl
  | unreliable => rfl

/-- A RELEASE_STATION that wins the grant is answered by its owner, who is asked only for the supervisor (R36, R166). -/
theorem exec_releaseStationGrant_of_answer {s : State} {p : PortId} {tag b : Byte}
    {rest : List Queued} {ans : Answer}
    (w : Wins p { tag := tag, req := .releaseStation b } rest s)
    (h : ifSupervisor p (releaseStationOwner b) (grantsHead p (slotOf b) s) = ans) :
    exec .releaseStationGrant s = .next (granted p tag 14 ans.code ans.data ans.st) :=
  congrArg Host.Outcome.next (grantHead_of_answer (a := b) w rfl h)

theorem exec_releaseStationGrant_of_not_isSup {s : State} {p : PortId} {tag b : Byte}
    {rest : List Queued} (w : Wins p { tag := tag, req := .releaseStation b } rest s)
    (h : isSup p s = false) :
    exec .releaseStationGrant s =
      .next (granted p tag 14 .notSupervisor [] (grantsHead p (slotOf b) s)) :=
  exec_releaseStationGrant_of_answer w (ifSupervisor_of_not_isSup _ (by simpa using h))

theorem exec_releaseStationGrant_of_isSup {s : State} {p : PortId} {tag b : Byte}
    {rest : List Queued} {ans : Answer}
    (w : Wins p { tag := tag, req := .releaseStation b } rest s) (h : isSup p s = true)
    (ho : releaseStationOwner b (grantsHead p (slotOf b) s) = ans) :
    exec .releaseStationGrant s = .next (granted p tag 14 ans.code ans.data ans.st) :=
  exec_releaseStationGrant_of_answer w
    ((ifSupervisor_of_isSup _ (by simpa using h)).trans ho)

/-! ## SUBMIT_REPORT (R17 to R19) -/

/-- The clock half that an anchoring report leaves: R19's values, and with an acquisition count of 1 the completion of R22. -/
theorem anchored_eq (t : Tuning) (nowT ts : Nat) (m : Int) (lock : Bool) {c : ClockHalf}
    (h : c.state = .acquiring) :
    c.anchored t nowT ts m lock = { c with
      anchor := some ts, offset := m, drift := 0, uncertainty := t.initialUncertainty,
      generation := c.generation + 1, faults := 0, lockOff := 0, candidate := none,
      lastAccepted := some nowT, lastAged := nowT,
      acquisition := if t.acquisition ≤ 1 then 0 else 1,
      state := if t.acquisition ≤ 1 then (if lock then .locked else .tracking)
        else .acquiring } := by
  unfold ClockHalf.anchored ClockHalf.acquire ClockHalf.complete
  split
  · rfl
  · rw [h]

/-- Every anchoring begins a new generation (R29). -/
theorem anchored_generation (t : Tuning) (nowT ts : Nat) (m : Int) (lock : Bool) (c : ClockHalf) :
    (c.anchored t nowT ts m lock).generation = c.generation + 1 := by
  unfold ClockHalf.anchored ClockHalf.acquire ClockHalf.complete
  split <;> rfl

/-- An anchoring moves an ACQUIRING station out of its state exactly when it completes acquisition (R22). -/
theorem anchored_state_ne_acquiring_iff (t : Tuning) (nowT ts : Nat) (m : Int) (lock : Bool)
    {c : ClockHalf} (h : c.state = .acquiring) :
    (c.anchored t nowT ts m lock).state ≠ .acquiring ↔ t.acquisition ≤ 1 := by
  rw [anchored_eq t nowT ts m lock h]
  by_cases ha : t.acquisition ≤ 1
  · cases lock <;> simp [ha]
  · simp [ha]

/-- A generation differs from the one before it, the wrap included (R29). -/
theorem gen_succ_ne (g : Gen) : g + 1 ≠ g := by bv_omega

/-- No refusal of R18 meets a report in the offset range for an ACQUIRING station without an anchor. -/
theorem reportRefusal_of_unanchored {ts tn : Nat} {c : ClockHalf} (hs : c.state = .acquiring)
    (ha : c.anchor = none) (lo : -2147483648 ≤ (tn : Int) - ts)
    (hi : (tn : Int) - ts ≤ 2147483647) : reportRefusal ts tn c = none := by
  have range : ¬((tn : Int) - ts < -2147483648 ∨ 2147483647 < (tn : Int) - ts) := by omega
  simp [reportRefusal, hs, ha, range]

/-- A report for an ACQUIRING station without an anchor is not gated; it anchors the model (R19). -/
theorem judgeReport_of_unanchored (t : Tuning) (nowT ts tn : Nat) (lock : Bool) {c : ClockHalf}
    (hs : c.state = .acquiring) (ha : c.anchor = none) :
    judgeReport t nowT ts tn lock c =
      { clk := c.anchored t nowT ts (tn - ts) lock, code := .anchored, residual := none,
        faulted := false } := if_pos ⟨hs, ha⟩

/-- A station that could not be eligible gives no eligibility-loss notice (R15). -/
theorem noticeIfLost_of_not_eligible {old : ClockState} (k : Slot) (new : ClockState) (s : State)
    (h : old.canBeEligible = false) : noticeIfLost k old new s = s := by
  simp [noticeIfLost, h]

/-- What an anchoring sets off: the re-time notice always (R29), STATION_STATE when it completes the acquisition (R16, R22), and no eligibility-loss notice (R15). -/
theorem applyReport_anchored (p : PortId) {k : Slot} {s : State} {c : ClockHalf} (t : Tuning)
    (nowT ts : Nat) (m : Int) (lock : Bool) (hc : (station k s).clk = c)
    (hs : c.state = .acquiring) :
    applyReport p k { clk := c.anchored t nowT ts m lock, code := .anchored, residual := none,
                      faulted := false } s =
      retimeNotice k (if t.acquisition ≤ 1
        then raiseWithSup p .stationState (updClk k (fun _ => c.anchored t nowT ts m lock) s)
        else updClk k (fun _ => c.anchored t nowT ts m lock) s) := by
  have notEligible : ClockState.acquiring.canBeEligible = false := rfl
  have newGen : (c.anchored t nowT ts m lock).generation ≠ c.generation := by
    rw [anchored_generation]; exact gen_succ_ne _
  simp only [applyReport, hc, hs, noticeIfLost_of_not_eligible k _ _ notEligible, if_pos newGen,
    anchored_state_ne_acquiring_iff t nowT ts m lock hs, reduceCtorEq, Bool.false_eq_true, if_false]

/-- A SUBMIT_REPORT that wins the grant and passes every refusal of R18 has the effect and the reply of its judgement (R17). -/
theorem exec_submitReportGrant_of_judged {s : State} {p : PortId} {tag : Byte} {r : ReportReq}
    {rest : List Queued} {k : Slot} {res : ReportResult}
    (w : Wins p { tag := tag, req := .submitReport r } rest s) (hk : slotOf r.slot = some k)
    (pass : reportRefusal r.ts.toNat r.tn.toNat (station k s).clk = none)
    (h : judgeReport (tuning s) (now s) r.ts.toNat r.tn.toNat (r.lock != 0)
      (station k s).clk = res) :
    exec .submitReportGrant s = .next (tryQuiesceGrant (granted p tag 2 res.code
      (reportData r.slot res.clk res.residual ++ rejectedMark res)
      (applyReport p k res (grantsHead p (slotOf r.slot) s)))) := by
  have answer : submitReportOwner p r (grantsHead p (slotOf r.slot) s) =
      { st := applyReport p k res (grantsHead p (slotOf r.slot) s), code := res.code,
        data := reportData r.slot res.clk res.residual ++ rejectedMark res } := by
    subst h
    simp only [submitReportOwner, hk, station_grantsHead, tuning_grantsHead, now_grantsHead, pass]
  exact congrArg (fun u => Host.Outcome.next (tryQuiesceGrant u))
    (grantHead_of_answer (a := r) w rfl answer)

end Sys2Proof.Machine

namespace Sys2Proof.ClockModels

open Sys2Proof.Machine Sys2Proof.Safety

/-- Settles O17, by the branches of R36 in the order of its refusals. -/
theorem releaseStationClearsAQuarantinedModel :
    Obligations.ReleaseStationClearsAQuarantinedModel := by
  intro s p tag b rest w
  refine ⟨fun free => ?_, fun sup noSlot => ?_,
    fun k sup hk => ⟨fun vacant => ?_, fun present kept => ?_, fun quarantined => ?_⟩⟩
  · exact exec_releaseStationGrant_of_not_isSup w free
  · exact exec_releaseStationGrant_of_isSup w sup (releaseStationOwner_of_no_slot _ noSlot)
  · exact exec_releaseStationGrant_of_isSup w sup (releaseStationOwner_of_vacant hk vacant)
  · exact exec_releaseStationGrant_of_isSup w sup
      (releaseStationOwner_of_not_quarantined hk present kept)
  · exact exec_releaseStationGrant_of_isSup w sup
      (releaseStationOwner_of_quarantined hk quarantined)

/-- Settles O20: the report passes R18, its judgement is the anchoring of R19, and the anchoring's effect is that of R16, R22 and R29. -/
theorem aReportAnchorsAnAcquiringStation : Obligations.AReportAnchorsAnAcquiringStation := by
  intro s p tag r rest k w hk c t m g acquiring unanchored lo hi c1
  have lockFlag : (if (r.lock != 0) = true then ClockState.locked else .tracking) =
      if r.lock = 0 then .tracking else .locked := by
    by_cases h : r.lock = 0 <;> simp [h]
  have clk : c.anchored t (now s) r.ts.toNat m (r.lock != 0) = c1 := by
    rw [anchored_eq _ _ _ _ _ acquiring, lockFlag]
  have judged : judgeReport t (now s) r.ts.toNat r.tn.toNat (r.lock != 0) c =
      { clk := c1, code := .anchored, residual := none, faulted := false } := by
    rw [judgeReport_of_unanchored _ _ _ _ _ acquiring unanchored, clk]
  have effect := applyReport_anchored p (s := g) (c := c) t (now s) r.ts.toNat m (r.lock != 0)
    rfl acquiring
  have run := exec_submitReportGrant_of_judged w hk
    (reportRefusal_of_unanchored acquiring unanchored lo hi) judged
  rw [clk] at effect
  rw [effect] at run
  exact run

end Sys2Proof.ClockModels
end

section
/-! PROOFS. The supervisor role: CLAIM_SUPERVISOR and RELEASE_SUPERVISOR (R140, R141). First what the reservation of a place leaves for the owner of a direct request to read, then one rule per owner, then the statement. -/

namespace Sys2Proof.Machine

open Sys2Proof.Safety

/-! ## What the reservation of a place leaves -/

@[simp] theorem isSup_reserved (q : PortId) (x : Xfer) (s : State) :
    isSup q (reserved x s) = isSup q s := rfl

/-- A change of the Supervision Unit and the reservation of a place commute. -/
theorem reserved_updSup (x : Xfer) (f : Supervision → Supervision) (s : State) :
    reserved x (updSup f s) = updSup f (reserved x s) := rfl

/-- A direct request that is taken is answered as its owner answers once the place is reserved (R162, R165). -/
theorem intakeDirect_of_answer {x : Xfer} {k : Byte} {need : Need} {dh : Bool}
    {owner : State → Answer} {s t : State} {c : Code} {d : List Field} (ht : Takes x s)
    (r : (rightsOf x.port s).grants need = true)
    (ho : owner (reserved x s) = { st := reserved x t, code := c, data := d }) :
    intakeDirect x k need dh owner s = answered x (.reply x.tag k c d) t := by
  obtain ⟨running, place⟩ := ht
  rw [intakeDirect_taken (Or.inl running) place r, ho]
  exact reply_reserved x k c d t

/-! ## The holder of the role (R172) -/

theorem isSup_of_role {s : State} {h : Holder} (hr : s.sup.role = some h) (q : PortId) :
    isSup q s = (q == h.port) := by
  simp only [isSup, supPort, hr, Option.map_some, Option.some_beq_some]
  exact BEq.comm

/-- A cause for the supervisor port is raised on the holder's port. -/
theorem raiseSup_of_role {s : State} {h : Holder} (hr : s.sup.role = some h) (c : Cause) :
    raiseSup c s = raiseIf (fun q => q == h.port) c s :=
  congrArg (fun sel => raiseIf sel c s) (funext (isSup_of_role hr))

/-! ## CLAIM_SUPERVISOR (R140) -/

theorem claimOwner_of_free {s : State} (p : PortId) (seed : BitVec 16) (hr : s.sup.role = none) :
    claimOwner p seed s =
      { st := grantRole p seed s, code := .done
        data := [.num 2 (if seed = 0 then 0xACE1#16 else seed).toNat, .num 3 (windowLength s),
          .num 1 (tuning s).checkinThreshold] } := by
  simp only [claimOwner, hr]

/-- The role is held on another port: HELD with that port, and CONTENDER raised there. -/
theorem claimOwner_of_held_elsewhere {s : State} {h : Holder} {p : PortId} (seed : BitVec 16)
    (hr : s.sup.role = some h) (hp : h.port ≠ p) :
    claimOwner p seed s =
      { st := raiseIf (fun q => q == h.port) .contender s, code := .held
        data := [.num 1 h.port.val] } := by
  simp only [claimOwner, hr, if_neg hp, raiseSup_of_role hr]

theorem claimOwner_of_own {s : State} {h : Holder} {p : PortId} (seed : BitVec 16)
    (hr : s.sup.role = some h) (hp : h.port = p) :
    claimOwner p seed s = refuse .already s := by
  simp only [claimOwner, hr, if_pos hp]

/-- The grant of the role and the reservation of a place commute. -/
theorem grantRole_reserved (p : PortId) (seed : BitVec 16) (x : Xfer) (s : State) :
    grantRole p seed (reserved x s) = reserved x (grantRole p seed s) := rfl

/-- A CLAIM_SUPERVISOR that is taken is answered by the Supervision Unit (R140, R165). -/
theorem exec_claimSupervisor_of_answer {s t : State} {x : Xfer} {seed : BitVec 16} {c : Code}
    {d : List Field} (ht : Takes x s) (r : (rightsOf x.port s).supervise = true)
    (ho : claimOwner x.port seed (reserved x s) = { st := reserved x t, code := c, data := d }) :
    exec (.claimSupervisor x seed) s = .next (answered x (.reply x.tag 16 c d) t) :=
  congrArg Host.Outcome.next (intakeDirect_of_answer (need := .supervise) ht r ho)

/-! ## The end of the role (R141) -/

/-- What the end of the role leaves: a quiesce that was on is over and its staged set dropped; a staged set stays where none was. -/
theorem endRole_eq (v : Supervision) :
    v.endRole = { v with
      role := none, stagedTuning := none, quiesce := .running
      staged := if v.quiesce = .running then v.staged else [] } := by
  unfold Supervision.endRole Supervision.endQuiesce
  cases hq : v.quiesce with
  | running => simp only [hq, if_true]
  | quiescing hold => rfl
  | quiesced deadline => rfl

theorem releaseRole_reserved (x : Xfer) (s : State) :
    releaseRole (reserved x s) = reserved x (releaseRole s) := by
  unfold releaseRole raiseAll
  rw [reserved_raiseIf, reserved_updSup]

/-- A RELEASE_SUPERVISOR of the holder that is taken ends the role (R141, R165). -/
theorem exec_releaseSupervisor_of_isSup {s : State} {x : Xfer} (ht : Takes x s)
    (r : (rightsOf x.port s).supervise = true) (h : isSup x.port s = true) :
    exec (.releaseSupervisor x) s =
      .next (answered x (.reply x.tag 17 .done []) (releaseRole s)) := by
  have released : ifSupervisor x.port (fun s => { st := releaseRole s, code := .done, data := [] })
      (reserved x s) = { st := reserved x (releaseRole s), code := .done, data := [] } := by
    rw [ifSupervisor_of_isSup _ ((isSup_reserved _ x s).trans h), releaseRole_reserved]
  exact congrArg Host.Outcome.next (intakeDirect_of_answer (need := .supervise) ht r released)

end Sys2Proof.Machine

namespace Sys2Proof.SupervisorRole

open Sys2Proof.Machine Sys2Proof.Safety

/-- Settles O43, by the three rows of R140 and the release of R141. -/
theorem theRoleIsClaimedAndReleased : Obligations.TheRoleIsClaimedAndReleased := by
  intro s x seed ht r challenge w
  refine ⟨fun free => ?_, fun h hr => ⟨fun elsewhere => ?_, fun own => ?_, fun own => ?_⟩⟩
  · have granted := claimOwner_of_free (s := reserved x s) x.port seed free
    rw [grantRole_reserved] at granted
    exact exec_claimSupervisor_of_answer ht r granted
  · have contended := claimOwner_of_held_elsewhere (s := reserved x s) seed hr elsewhere
    rw [← reserved_raiseIf] at contended
    exact exec_claimSupervisor_of_answer ht r contended
  · exact exec_claimSupervisor_of_answer ht r (claimOwner_of_own seed hr own)
  · have holder : isSup x.port s = true := by simp [isSup_of_role hr, own]
    rw [exec_releaseSupervisor_of_isSup ht r holder, releaseRole, updSup, endRole_eq]

end Sys2Proof.SupervisorRole
end

section
/-! PROOFS. The queue of commands, the power-on values and the Time Base (R1 to R7): what a sweep leaves of them, one rule for the requests of the supervisor, and the statements. -/

namespace Sys2Proof.Machine

open Sys2Proof.Safety

/-- The counter is 0 after 2^56 - 1 (R1). -/
theorem wraps_eq {n : Nat} (range : n ≤ 2 ^ 56 - 1) :
    (if n < Config.timeMax then n + 1 else 0) = (n + 1) % 2 ^ 56 := by
  by_cases below : n < Config.timeMax
  · exact (if_pos below).trans (Nat.mod_eq_of_lt (Nat.succ_lt_succ below)).symm
  · rw [if_neg below, Nat.le_antisymm range (Nat.not_lt.mp below)]
    rfl

/-! ## Direct requests of the supervisor (R155) -/

/-- A direct request of the holder that is taken is answered as its owner answers once the place is reserved (R155, R162, R165). -/
theorem supervised_of_answer {x : Xfer} {k : Byte} {owner : State → Answer} {s t : State} {c : Code}
    {d : List Field} (h : Supervises x s)
    (ho : owner (reserved x s) = { st := reserved x t, code := c, data := d }) :
    intakeDirect x k .supervise false (ifSupervisor x.port owner) s =
      answered x (.reply x.tag k c d) t :=
  intakeDirect_of_answer h.1 h.2.1 ((ifSupervisor_of_isSup (s := reserved x s) owner h.2.2).trans ho)

/-! ## Sweeps leave time and supervision (R44 to R48) -/

/-- Time and supervision as they were. -/
structure UpkeepSame (s t : State) : Prop where
  tb : t.tb = s.tb
  silenceClock : t.silenceClock = s.silenceClock
  sup : t.sup = s.sup

theorem UpkeepSame.refl (s : State) : UpkeepSame s s := ⟨rfl, rfl, rfl⟩

theorem UpkeepSame.trans {s t u : State} (a : UpkeepSame s t) (b : UpkeepSame t u) :
    UpkeepSame s u :=
  ⟨b.tb.trans a.tb, b.silenceClock.trans a.silenceClock, b.sup.trans a.sup⟩

theorem UpkeepSame.ite {c : Prop} [Decidable c] {s t u : State} (a : UpkeepSame s t)
    (b : UpkeepSame s u) : UpkeepSame s (if c then t else u) := by split <;> assumption

theorem UpkeepSame.eq {s u : State} (h : UpkeepSame s u) :
    u = { u with tb := s.tb, silenceClock := s.silenceClock, sup := s.sup } := by
  rw [← h.tb, ← h.silenceClock, ← h.sup]

theorem upkeepSame_noticeIfLost (k : Slot) (old new : ClockState) (s : State) :
    UpkeepSame s (noticeIfLost k old new s) := .ite ⟨rfl, rfl, rfl⟩ (.refl s)

theorem upkeepSame_sweepOne (s : State) (k : Slot) : UpkeepSame s (sweepOne s k) := by
  refine UpkeepSame.trans ?_ (upkeepSame_noticeIfLost k _ _ _)
  exact .ite ⟨rfl, rfl, rfl⟩ ⟨rfl, rfl, rfl⟩

theorem upkeepSame_foldl_sweepOne (l : List Slot) (s : State) : UpkeepSame s (l.foldl sweepOne s) := by
  induction l generalizing s with
  | nil => exact .refl s
  | cons k l ih => exact (upkeepSame_sweepOne s k).trans (ih _)

theorem upkeepSame_sweep (s : State) : UpkeepSame s (sweep s) := by
  have taken := upkeepSame_foldl_sweepOne (sweepSlots s) s
  unfold sweep
  dsimp only
  split
  · exact taken.trans ⟨rfl, rfl, rfl⟩
  · exact taken

/-- A PPS edge as the Clock Model Unit counts it (R42). -/
theorem countPulse_eq (s : State) : countPulse s =
    if (tuning s).trigger ≠ .pulse then s
    else if s.sweep.pulses + 1 < (tuning s).sweepN then
      { s with sweep := { s.sweep with pulses := s.sweep.pulses + 1 } }
    else sweep { s with sweep := { s.sweep with pulses := 0 } } := by
  by_cases pulse : (tuning s).trigger = .pulse
  · have counts : (tuning s).trigger = .pulse ∧ (tuning s).sweepN ≤ s.sweep.pulses + 1 ↔
        ¬s.sweep.pulses + 1 < (tuning s).sweepN := (and_iff_right pulse).trans Nat.not_lt.symm
    exact (if_pos pulse).trans (((if_congr counts rfl rfl).trans (ite_not ..)).trans
      (if_neg (not_not.mpr pulse)).symm)
  · exact (if_neg pulse).trans (if_pos pulse).symm

theorem upkeepSame_countPulse (s : State) : UpkeepSame s (countPulse s) := by
  rw [countPulse_eq]
  split
  · exact .refl s
  · split
    · exact ⟨rfl, rfl, rfl⟩
    · have swept := upkeepSame_sweep { s with sweep := { s.sweep with pulses := 0 } }
      exact ⟨swept.tb, swept.silenceClock, swept.sup⟩

theorem execPpsEdge_of_no_check {s : State}
    (h : (tuning s).ppsCheck = false ∨ s.tb.timeSet = false) :
    exec .ppsEdge s = .next (countPulse s) := by
  have same := upkeepSame_countPulse s
  refine congrArg Host.Outcome.next (if_neg ?_)
  rw [tuning, same.sup, same.tb]
  rcases h with off | unset
  · rw [show s.sup.active.ppsCheck = false from off, Bool.false_and]
    exact Bool.false_ne_true
  · rw [unset, Bool.and_false]
    exact Bool.false_ne_true

theorem execPpsEdge_of_check {s : State} (on : (tuning s).ppsCheck = true)
    (set : s.tb.timeSet = true) : exec .ppsEdge s = .next (checkPps (countPulse s)) := by
  have same := upkeepSame_countPulse s
  refine congrArg Host.Outcome.next (if_pos ?_)
  rw [tuning, same.sup, same.tb, set, Bool.and_true]
  exact on

/-! ## The check of an edge by its four rows (R5), after a count that left time and supervision -/

section PpsCheck

variable {s u : State}

theorem setPhase_eq (same : UpkeepSame s u) (q : Int) :
    setPhase q u = { u with tb := { s.tb with phase := some q } } :=
  congrArg (fun b : TimeBase => { u with tb := { b with phase := some q } }) same.tb

theorem setPhase_setNow (same : UpkeepSame s u) (n : Nat) (q : Int) :
    setPhase q (setNow n u) = { u with
      tb := { s.tb with now := n, phase := some q }
      silenceClock := if s.sup.quiesce = .running then
        holdTime ((s.silenceClock : Int) + ((n : Int) - (s.tb.now : Int))) else s.silenceClock } := by
  refine (congrArg (fun w => setPhase q (setNow n w)) same.eq).trans ?_
  exact congrArg (fun v => { u with
      tb := { s.tb with now := n, phase := some q }
      silenceClock := if s.sup.quiesce = Quiesce.running then
        holdTime ((s.silenceClock : Int) + ((n : Int) - (s.tb.now : Int))) else s.silenceClock
      sup := v }) same.sup.symm

theorem slip_setPhase (same : UpkeepSame s u) (q : Int) : slip (setPhase q u) =
    raiseIf (fun p => isSup p s || s.sup.role.isNone) .referenceSlip { u with
      tb := { s.tb with phase := some q, slip := min (s.tb.slip + 1) 65535 } } := by
  refine (congrArg (fun w => slip (setPhase q w)) same.eq).trans ?_
  exact congrArg₂ (fun v c => raiseIf (fun p => isSup p s || s.sup.role.isNone) .referenceSlip { u with
      tb := { s.tb with phase := some q, slip := min (s.tb.slip + 1) 65535 }
      sup := v, silenceClock := c }) same.sup.symm same.silenceClock.symm

/-- The four rows, the counter and the tolerance given. -/
noncomputable def checkedPps (b : TimeBase) (tol : Nat) (u : State) : State :=
  if b.now % 1000000 = 0 then setPhase 0 u
  else if b.now % 1000000 ≤ tol then
    setPhase (b.now % 1000000 : Nat) (setNow (b.now - b.now % 1000000) u)
  else if 1000000 - tol ≤ b.now % 1000000 then
    setPhase ((b.now % 1000000 : Nat) - 1000000) (setNow (b.now + (1000000 - b.now % 1000000)) u)
  else slip (setPhase (if b.now % 1000000 ≤ 500000 then (b.now % 1000000 : Nat)
    else (b.now % 1000000 : Nat) - 1000000) u)

theorem checkPps_eq (same : UpkeepSame s u) :
    checkPps u = checkedPps s.tb (tuning s).ppsTolerance u :=
  congrArg₂ (fun (b : TimeBase) (v : Supervision) => checkedPps b v.active.ppsTolerance u)
    same.tb same.sup

theorem checkPps_low (same : UpkeepSame s u) (one : 1 ≤ s.tb.now % 1000000)
    (low : s.tb.now % 1000000 ≤ (tuning s).ppsTolerance) : checkPps u =
      setPhase (s.tb.now % 1000000 : Nat) (setNow (s.tb.now - s.tb.now % 1000000) u) :=
  (checkPps_eq same).trans ((if_neg (Nat.ne_of_gt one)).trans (if_pos low))

theorem checkPps_above (same : UpkeepSame s u)
    (above : (tuning s).ppsTolerance < s.tb.now % 1000000) : checkPps u =
      if 1000000 - (tuning s).ppsTolerance ≤ s.tb.now % 1000000 then
        setPhase ((s.tb.now % 1000000 : Nat) - 1000000)
          (setNow (s.tb.now + (1000000 - s.tb.now % 1000000)) u)
      else slip (setPhase (if s.tb.now % 1000000 ≤ 500000 then (s.tb.now % 1000000 : Nat)
        else (s.tb.now % 1000000 : Nat) - 1000000) u) :=
  (checkPps_eq same).trans ((if_neg (Nat.ne_of_gt (Nat.lt_of_le_of_lt (Nat.zero_le _) above))).trans
    (if_neg (Nat.not_le.mpr above)))

end PpsCheck

/-! ## SET_TIME (R6) -/

theorem setNow_reserved (n : Nat) (x : Xfer) (s : State) :
    setNow n (reserved x s) = reserved x (setNow n s) := rfl

theorem withinSecond_iff (t n : Nat) :
    withinSecond t n = true ↔ ((t : Int) - (n : Int)).natAbs ≤ 1000000 := decide_eq_true_iff

/-! ## The reads (R171, R174) -/

theorem readCausesData_of_causes {p q : PortState} (h : p.causes = q.causes) :
    readCausesData p = readCausesData q :=
  congrArg (fun v => readCausesData { q with causes := v }) h

theorem endTxn_keeps (n : Nat) (p : PortState) : p.endTxn n =
    { p with txn := none, out := (p.endTxn n).out, sent := (p.endTxn n).sent } := by
  unfold PortState.endTxn
  split
  · rfl
  · next h => rw [← h]

theorem statusData_of_port {p : PortId} {q : PortState} {s : State} (h : port p s = q) :
    statusData p s = [.bit q.halted, .num 1 q.inFlight, .num 1 q.reservations,
      .num 1 q.queue.length, .bit q.overdue, .bit q.urgent.isSome, .num 1 q.dropped,
      .flags [(rightsOf p s).submit, (rightsOf p s).consume, (rightsOf p s).supervise],
      .num 1 (rightsOf p s).subscriptions.toNat, .num 1 (rightsOf p s).credit,
      .num 1 (rightsOf p s).framePolicy.num, .num 1 (rightsOf p s).violation.num] := by
  rw [← h]
  rfl

theorem mem_pendingCauses (p : PortState) (c : Fin 21) (n : Nat) : (c.val, n) ∈ p.pendingCauses ↔
    p.causes[c].pending = true ∧ n = p.causes[c].count.toNat := by
  unfold PortState.pendingCauses
  rw [List.mem_filterMap]
  constructor
  · rintro ⟨d, -, e⟩
    split at e
    · next pending =>
      obtain ⟨i, v⟩ := Prod.mk.inj (Option.some.inj e)
      obtain rfl := Fin.ext i
      exact ⟨pending, v.symm⟩
    · cases e
  · rintro ⟨pending, rfl⟩
    exact ⟨c, List.mem_finRange c, if_pos pending⟩

end Sys2Proof.Machine

namespace Sys2Proof.PowerAndTime

open Sys2Proof.Machine Sys2Proof.Safety

/-- Settles O1, by the definition of a step. -/
theorem stepRunsTheFrontCommand : Obligations.StepRunsTheFrontCommand := by
  refine ⟨fun _ _ _ => rfl, fun _ _ => rfl, fun s h => ?_⟩
  unfold step
  rw [h]

/-- Settles O3, by the reset state; the tables by their index. -/
theorem powerOnGivesTheResetValues : Obligations.PowerOnGivesTheResetValues := by
  refine fun s => ⟨_, rfl, rfl, rfl, fun k => ?_, rfl, rfl, rfl, rfl, rfl, rfl, rfl, rfl, rfl,
    fun g => ?_, rfl, rfl, rfl, rfl, rfl, rfl, rfl, fun z => ?_, fun p => ?_, fun p => ?_, rfl⟩
  · have vacant : station k { State.reset with pending := s.pending } = .vacant :=
      Vector.getElem_ofFn k.isLt
    rw [vacant]
    exact ⟨rfl, rfl, rfl, rfl, rfl, rfl, rfl, rfl, rfl, rfl, rfl, rfl⟩
  · exact congrArg Group.state (Vector.getElem_ofFn g.isLt)
  · exact Vector.getElem_ofFn z.isLt
  · exact Vector.getElem_ofFn p.isLt
  · have initial : port p { State.reset with pending := s.pending } = .initial :=
      Vector.getElem_ofFn p.isLt
    rw [initial]
    refine ⟨rfl, rfl, rfl, rfl, rfl, rfl, rfl, by decide, fun c => ?_⟩
    refine (Vector.getElem_ofFn c.isLt).trans ?_
    by_cases first : c.val = 0
    · simp [first]
    · simp [first, CauseRec.clear]

/-- Settles O4: each invariant is evaluated on the reset state, where every list is empty. -/
theorem resetMeetsTheInvariants : Obligations.ResetMeetsTheInvariants := by
  have none_of {α : Type} {P : α → Prop} (a : α) (h : a ∈ ([] : List α)) : P a := by cases h
  refine ⟨⟨by decide, fun x h => ?_, fun x h => ?_, by decide, none_of, by decide⟩, by decide,
    by decide, by decide, by decide, by decide, by decide, by decide, by decide⟩
  · cases h
  · cases h

/-- Settles O5, by the definitions of the four changes. -/
theorem theCounterAdvancesFromItsSource : Obligations.TheCounterAdvancesFromItsSource := by
  refine ⟨fun s range => ?_, fun s => ⟨rfl, fun internal => ?_, fun refclk => ?_⟩⟩
  · exact congrArg (fun n => Host.Outcome.next { s with
      tb := { s.tb with
        now := n
        source := if s.tb.switchPending then ClockSource.refclk else s.tb.source
        switchPending := false }
      silenceClock := if s.sup.quiesce = Quiesce.running then min (s.silenceClock + 1) (2 ^ 56 - 1)
        else s.silenceClock }) (wraps_eq range)
  · exact congrArg Host.Outcome.next (if_pos internal)
  · exact congrArg Host.Outcome.next (if_neg (by rw [refclk]; decide))

/-- Settles O6: the edge is counted, which leaves time and supervision (`upkeepSame_countPulse`), and the check takes its four rows. -/
theorem ppsEdgeIsCheckedByItsFourRows : Obligations.PpsEdgeIsCheckedByItsFourRows := by
  intro s tolerance u ph tol silence
  have counted : countPulse s = u := countPulse_eq s
  have same : UpkeepSame s u := counted ▸ upkeepSame_countPulse s
  refine ⟨fun off => counted ▸ execPpsEdge_of_no_check off, fun on set => ?_⟩
  have checked {v : State} (h : checkPps u = v) : exec .ppsEdge s = .next v :=
    (execPpsEdge_of_check on set).trans (congrArg Host.Outcome.next (counted ▸ h))
  refine ⟨fun zero => checked ?_, fun one low => checked ?_, fun high => checked ?_,
    fun above below => checked ?_⟩
  · exact (checkPps_eq same).trans ((if_pos zero).trans (setPhase_eq same 0))
  · exact (checkPps_low same one low).trans (setPhase_setNow same _ _)
  · have above : tol < ph := Nat.lt_of_lt_of_le (Nat.lt_of_lt_of_le
      (Nat.lt_of_le_of_lt tolerance (by decide)) (Nat.sub_le_sub_left tolerance 1000000)) high
    exact (checkPps_above same above).trans ((if_pos high).trans (setPhase_setNow same _ _))
  · exact (checkPps_above same above).trans ((if_neg (Nat.not_le.mpr below)).trans
      (slip_setPhase same _))

/-- Settles O7, by the state of the ring and the size of the step (R6). -/
theorem setTimeStepsTheCounter : Obligations.SetTimeStepsTheCounter := by
  intro s x t h silence
  have run {c : Code} {d : List Field} {u : State} (ho : setTimeOwner t.toNat (reserved x s) =
      { st := reserved x u, code := c, data := d }) :
      exec (.setTime x t) s = .next (answered x (.reply x.tag 25 c d) u) :=
    congrArg Host.Outcome.next (supervised_of_answer h ho)
  have now_eq : now (reserved x s) = s.tb.now := rfl
  have ring_eq : (reserved x s).ring = s.ring := rfl
  refine ⟨fun stopped => run ?_, fun active near => run ?_, fun active far => run ?_⟩
  · simp only [setTimeOwner, ring_eq, stopped]
    rfl
  · simp only [setTimeOwner, ring_eq, active, now_eq, (withinSecond_iff _ _).mpr near, if_true]
    rfl
  · simp only [setTimeOwner, ring_eq, active, now_eq, withinSecond_iff, Nat.not_le.mpr far, if_false]
    rfl

/-- Settles O8: each read is answered from the state with the place reserved, which has the values of the state before but for the reservation. -/
theorem readsChangeNoState : Obligations.ReadsChangeNoState := by
  refine fun s x => ⟨fun h => ?_, fun h => ?_, fun c n => mem_pendingCauses _ c n, fun place => ?_⟩
  · exact congrArg Host.Outcome.next (intakeDirect_of_answer h rfl rfl)
  · refine congrArg Host.Outcome.next (intakeDirect_of_answer h rfl
      (congrArg (Answer.mk (reserved x s) .done) (readCausesData_of_causes ?_)))
    exact (congrArg PortState.causes (port_reserved x s)).trans (endTxn_causes _ _)
  · refine congrArg Host.Outcome.next ((intakeDirect_taken (Or.inr rfl) place rfl).trans
      ((reply_reserved x 31 _ _ s).trans (congrArg (fun d => answered x (.reply x.tag 31 .done d) s) ?_)))
    exact statusData_of_port ((port_reserved x s).trans (congrArg (fun q : PortState =>
      { q with reservations := (port x.port s).reservations + 1 }) (endTxn_keeps x.clocked _)))

end Sys2Proof.PowerAndTime
end

section
/-! PROOFS. Transactions and intake (R159 to R165): how each command of the catalogue comes in, one rule for each check, and the statements. -/

namespace Sys2Proof.Machine

open Sys2Proof.Safety

/-! ## How a request comes in -/

/-- A change of a port goes by what it makes of that port. -/
theorem updPort_congr {p : PortId} {f g : PortState → PortState} {s : State}
    (h : f (port p s) = g (port p s)) : updPort p f s = updPort p g s :=
  congrArg (fun q => { s with ports := put s.ports p q }) h

theorem updPort_of_same {p : PortId} {f : PortState → PortState} {s : State}
    (h : f (port p s) = port p s) : updPort p f s = s := by
  refine (updPort_congr (g := id) h).trans ?_
  simp only [updPort, id, put_same]

/-- Two bytes, the high one first (R176). -/
theorem bytesBE_two (n : Nat) : bytesBE 2 n = [BitVec.ofNat 8 (n / 256), BitVec.ofNat 8 n] := by
  simp [bytesBE]

/-- What is said of the port and the kind of the request that a command is, if it is one: commands are sorted by it, case by case. -/
def OfRequest (P : Xfer → Nat → Prop) : Option (Xfer × Nat) → Prop
  | some (x, k) => P x k
  | none => True

/-- The same of the port and the request that waits. -/
def OfWaiting (P : Xfer → ServiceReq → Prop) : Option (Xfer × ServiceReq) → Prop
  | some (x, r) => P x r
  | none => True

theorem waiting_comes (i : Instr) :
    OfWaiting (fun x r => ∀ s, exec i s = .next (intakeService x r s)) (waiting i) := by
  cases i
  case submitBlock | submitReport | zoneFlushed | attach | detach | fetchEpoch | fetchPage | ackEpoch |
      readStation | startRing | networkReset | quiesceEndApply | releaseStation | startSweep =>
    exact fun _ => rfl
  all_goals exact trivial

theorem checkInOwner_of_not_isSup {p : PortId} {s : State} (response : BitVec 16)
    (h : isSup p s = false) : checkInOwner p response s = refuse .notSupervisor s := by
  unfold checkInOwner
  cases role : s.sup.role with
  | none => rfl
  | some holder =>
    rw [isSup_of_role role] at h
    exact if_pos fun e => absurd e.symm (ne_of_beq_false h)

/-- How a request of kind k on port x.port comes in (Table 10-1): as a poll, to a pending queue, to the urgent slot, or to its owner at once. All the supervisor's direct requests but the claim are refused to a port that does not hold the role (R155). -/
inductive Comes (x : Xfer) : Nat → Instr → Prop
  | poll {i : Instr} (h : i = .noRequest x) : Comes x 0 i
  | service {i : Instr} {k : Nat} (r : ServiceReq) (hk : (reqKind r).toNat = k)
      (run : ∀ s, exec i s = .next (intakeService x r s)) : Comes x k i
  | urgent {i : Instr} (b : Byte) (t : BitVec 56)
      (run : ∀ s, exec i s = .next (intakeConvert x b t s)) : Comes x 10 i
  | supervisor {i : Instr} {k : Nat} (owner : State → Answer) (lo : 16 ≤ k) (hi : k ≤ 26)
      (run : ∀ s, exec i s = .next (intakeDirect x (BitVec.ofNat 8 k) .supervise false owner s))
      (refused : 17 ≤ k → ∀ s, isSup x.port s = false → owner s = refuse .notSupervisor s) :
      Comes x k i
  | own {i : Instr} {k : Nat} (owner : State → Answer) (lo : 27 ≤ k) (run : ∀ s, exec i s = .next
      (intakeDirect x (BitVec.ofNat 8 k) .none (takenWhenHalted (BitVec.ofNat 8 k)) owner s)) :
      Comes x k i
  | reset {i : Instr} (h : i = .portReset x) : Comes x 33 i

theorem Comes.ifSup {x : Xfer} {i : Instr} {k : Nat} {owner : State → Answer} (lo : 16 ≤ k)
    (hi : k ≤ 26) (run : ∀ s, exec i s = .next (intakeDirect x (BitVec.ofNat 8 k) .supervise false
      (ifSupervisor x.port owner) s)) : Comes x k i :=
  .supervisor _ lo hi run fun _ _ => ifSupervisor_of_not_isSup owner

theorem request_comes (i : Instr) : OfRequest (fun x k => Comes x k i) i.request := by
  cases i
  case noRequest => exact .poll rfl
  case convert => exact .urgent _ _ fun _ => rfl
  case portReset => exact .reset rfl
  case claimSupervisor =>
    exact .supervisor _ (by decide) (by decide) (fun _ => rfl) fun h => absurd h (by decide)
  case checkIn =>
    exact .supervisor _ (by decide) (by decide) (fun _ => rfl)
      fun _ _ => checkInOwner_of_not_isSup _
  case submitBlock x b => exact .service (.submitBlock b) rfl fun _ => rfl
  case submitReport x r => exact .service (.submitReport r) rfl fun _ => rfl
  case zoneFlushed x z t => exact .service (.zoneFlushed z t) rfl fun _ => rfl
  case attach x g => exact .service (.attach g) rfl fun _ => rfl
  case detach x g => exact .service (.detach g) rfl fun _ => rfl
  case fetchEpoch x g => exact .service (.fetchEpoch g) rfl fun _ => rfl
  case fetchPage x g n p => exact .service (.fetchPage g n p) rfl fun _ => rfl
  case ackEpoch x g n => exact .service (.ackEpoch g n) rfl fun _ => rfl
  case readStation x k => exact .service (.readStation k) rfl fun _ => rfl
  case startRing x o l => exact .service (.startRing o l) rfl fun _ => rfl
  case networkReset x => exact .service (.networkReset) rfl fun _ => rfl
  case quiesceEndApply x => exact .service (.quiesceEndApply) rfl fun _ => rfl
  case releaseStation x k => exact .service (.releaseStation k) rfl fun _ => rfl
  case startSweep x => exact .service (.startSweep) rfl fun _ => rfl
  case releaseSupervisor => exact .ifSup (by decide) (by decide) fun _ => rfl
  case quiesceRequest => exact .ifSup (by decide) (by decide) fun _ => rfl
  case quiesceEndDiscard => exact .ifSup (by decide) (by decide) fun _ => rfl
  case stageShape => exact .ifSup (by decide) (by decide) fun _ => rfl
  case stageTuning => exact .ifSup (by decide) (by decide) fun _ => rfl
  case commitTuning => exact .ifSup (by decide) (by decide) fun _ => rfl
  case discardTuning => exact .ifSup (by decide) (by decide) fun _ => rfl
  case setTime => exact .ifSup (by decide) (by decide) fun _ => rfl
  case setRights => exact .ifSup (by decide) (by decide) fun _ => rfl
  case readTime => exact .own _ (by decide) fun _ => rfl
  case readCauses => exact .own _ (by decide) fun _ => rfl
  case ackCause => exact .own _ (by decide) fun _ => rfl
  case setCauseMask => exact .own _ (by decide) fun _ => rfl
  case status => exact .own _ (by decide) fun _ => rfl
  case resumePort => exact .own _ (by decide) fun _ => rfl
  all_goals exact trivial
theorem Comes.of_request {i : Instr} {x : Xfer} {k : Nat} (h : i.request = some (x, k)) :
    Comes x k i := by
  have c := request_comes i
  rw [h] at c
  exact c

theorem exec_of_waiting {i : Instr} {x : Xfer} {r : ServiceReq} (h : waiting i = some (x, r))
    (s : State) : exec i s = .next (intakeService x r s) := by
  have c := waiting_comes i
  rw [h] at c
  exact c s

/-- The kinds that need no right: the poll and those that each port may ask of itself (Table 10-1). -/
theorem need_of_outside {k : Nat} (h : k = 0 ∨ 27 ≤ k) : needOf k = .none := by
  rcases h with rfl | above
  · rfl
  · have beyond {lo n : Nat} (le : n < 27) : ¬(lo ≤ k ∧ k ≤ n) :=
      fun h => Nat.not_le.mpr (Nat.lt_of_lt_of_le le above) h.2
    rw [needOf, if_neg (beyond (by decide)), if_neg (beyond (by decide)), if_neg (beyond (by decide))]

theorem not_outside {k : Nat} (lo : 1 ≤ k) (hi : k ≤ 26) : ¬(k = 0 ∨ 27 ≤ k) :=
  fun h => h.elim (Nat.ne_of_gt lo) (Nat.not_le.mpr (Nat.lt_succ_of_le hi))

theorem need_of_supervisor : ∀ k < 27, 16 ≤ k → needOf k = .supervise := by decide

theorem need_of_kind (r : ServiceReq) : needOf (reqKind r).toNat = (reqClass r).need := by
  cases r <;> rfl

theorem submit_of_kind (r : ServiceReq) : (reqKind r).toNat ≤ 3 → reqClass r = .submit := by
  have checked : decide ((reqKind r).toNat ≤ 3 → reqClass r = .submit) = true := by cases r <;> rfl
  exact of_decide_eq_true checked

/-- A kind of a request that waits in a queue (Table 10-1). -/
noncomputable def queuedKind (k : Nat) : Bool := decide (1 ≤ k ∧ k ≤ 15 ∧ k ≠ 10)

theorem queuedKind_reqKind (r : ServiceReq) : queuedKind (reqKind r).toNat = true := by
  cases r <;> rfl

theorem reqKind_range (r : ServiceReq) : 1 ≤ (reqKind r).toNat ∧ (reqKind r).toNat ≤ 15 ∧
    (reqKind r).toNat ≠ 10 := of_decide_eq_true (queuedKind_reqKind r)

theorem ofNat_reqKind (r : ServiceReq) : BitVec.ofNat 8 (reqKind r).toNat = reqKind r :=
  (BitVec.ofNat_toNat 8 _).trans (BitVec.setWidth_eq _)

/-- The ways in, sorted by what the checks after the place tell apart. -/
theorem Comes.elim {P : Prop} {x : Xfer} {k : Nat} {i : Instr} (c : Comes x k i)
    (outside : k = 0 ∨ 27 ≤ k → P)
    (service : ∀ r, (reqKind r).toNat = k → (∀ s, exec i s = .next (intakeService x r s)) → P)
    (urgent : k = 10 → ∀ b t, (∀ s, exec i s = .next (intakeConvert x b t s)) → P)
    (supervisor : 16 ≤ k → k ≤ 26 → ∀ owner,
      (∀ s, exec i s = .next (intakeDirect x (BitVec.ofNat 8 k) .supervise false owner s)) →
      (17 ≤ k → ∀ s, isSup x.port s = false → owner s = refuse .notSupervisor s) → P) : P := by
  cases c with
  | poll h => exact outside (.inl rfl)
  | service r hk run => exact service r hk run
  | urgent b t run => exact urgent rfl b t run
  | supervisor owner lo hi run refused => exact supervisor lo hi owner run refused
  | own owner lo run => exact outside (.inr lo)
  | reset h => exact outside (.inr (by decide))

/-- A HALTED port discards what it does not take and has no place for, whatever is taken when it is full (R162). -/
theorem takePlace_halted_discarded {x : Xfer} {k : Byte} {wf : Bool} {go : State → State} {s : State}
    (h : (port x.port s).halted = true) (p : ¬HasPlace x s) :
    takePlace x k false wf go (endTransaction x.port x.clocked s) = discarded x s := by
  have full : ((port x.port s).endTxn x.clocked).full = true := by
    rw [full_eq]; exact decide_eq_true (Nat.not_lt.mp p)
  simp only [takePlace, endTransaction, port_updPort_self, endTxn_halted, h, full, Bool.not_false,
    Bool.and_self, if_true, updPort_updPort]
  rfl

/-- A request frame that asks for a place first; only a PORT_RESET is taken when there is none (R162). -/
def AsksForPlace (i : Instr) (x : Xfer) (k : Byte) : Prop :=
  ∃ wf go, (∀ s, exec i s = .next
    (takePlace x k (takenWhenHalted k) wf go (endTransaction x.port x.clocked s))) ∧
    ((∀ y, i ≠ .portReset y) → wf = false)

theorem asksForPlace_of_exec {i : Instr} {x : Xfer} {k : Byte} {go : State → State}
    (h : ∀ s, exec i s = .next
      (takePlace x k (takenWhenHalted k) false go (endTransaction x.port x.clocked s))) :
    AsksForPlace i x k := ⟨false, go, h, fun _ => rfl⟩

theorem asksForPlace_of_running {i : Instr} {x : Xfer} {k : Byte} {go : State → State}
    (halts : takenWhenHalted k = false) (h : ∀ s, exec i s = .next
      (takePlace x k false false go (endTransaction x.port x.clocked s))) : AsksForPlace i x k :=
  asksForPlace_of_exec fun s => by rw [halts]; exact h s

theorem takenWhenHalted_below : ∀ k < 31, takenWhenHalted (BitVec.ofNat 8 k) = false := by decide

theorem Comes.asksForPlace {i : Instr} {x : Xfer} {k : Nat} (c : Comes x k i)
    (h : i ≠ .noRequest x) : AsksForPlace i x (BitVec.ofNat 8 k) := by
  cases c with
  | poll e => exact absurd e h
  | service r hk run =>
    obtain rfl := hk
    have halts := takenWhenHalted_below _ (Nat.lt_of_le_of_lt (reqKind_range r).2.1 (by decide))
    rw [ofNat_reqKind] at halts ⊢
    exact asksForPlace_of_running halts run
  | urgent b t run => exact asksForPlace_of_exec run
  | supervisor owner lo hi run _ =>
    exact asksForPlace_of_running (takenWhenHalted_below k (Nat.lt_of_le_of_lt hi (by decide))) run
  | own owner lo run => exact asksForPlace_of_exec run
  | reset e =>
    obtain rfl := e
    exact ⟨true, _, fun _ => rfl, fun other => absurd rfl (other x)⟩

/-- What an instruction may be, as far as the place is concerned: one of the catalogue's requests, of a kind outside it, or a poll. -/
def SortedByPlace (i : Instr) : Prop :=
  (placed i = i.request.map fun e => (e.1, BitVec.ofNat 8 e.2)) ∨
    ∃ (x : Xfer) (k n : Byte), i = .unknownRequestKind x k n

theorem SortedByPlace.of_request {i : Instr}
    (h : placed i = i.request.map fun e => (e.1, BitVec.ofNat 8 e.2)) : SortedByPlace i := .inl h

theorem sortedByPlace (i : Instr) (notPoll : ∀ x, i ≠ .noRequest x) : SortedByPlace i := by
  cases i
  case noRequest x => exact absurd rfl (notPoll x)
  case unknownRequestKind x k n => exact .inr ⟨x, k, n, rfl⟩
  all_goals exact .of_request rfl

theorem asksForPlace_of_placed {i : Instr} {x : Xfer} {k : Byte} (h : placed i = some (x, k)) :
    AsksForPlace i x k := by
  have notPoll (y : Xfer) : i ≠ .noRequest y := fun poll => by rw [poll] at h; cases h
  rcases sortedByPlace i notPoll with request | ⟨y, j, n, rfl⟩
  · obtain ⟨e, he, same⟩ := Option.map_eq_some_iff.mp (request.symm.trans h)
    cases same
    exact (Comes.of_request he).asksForPlace (notPoll _)
  · cases h
    exact asksForPlace_of_exec fun _ => rfl

theorem takenWhenHalted_iff (k : Byte) : takenWhenHalted k = true ↔ k = 31 ∨ k = 32 ∨ k = 33 := by
  simp [takenWhenHalted, or_assoc]

/-! ## The checks after the place (R163 to R165) -/

section Checks

variable {x : Xfer} {s : State} {k : Byte} {go : State → State}

theorem checkCredit_refused (h : ¬HasCredit x s) : checkCredit x k go (reserved x s) =
    answered x (.reply x.tag k .noCredit []) s := by
  unfold checkCredit
  rw [port_reserved]
  exact (if_pos (by rw [endTxn_inFlight]; exact Nat.not_lt.mp h)).trans (reply_reserved x k _ _ s)

theorem checkCredit_passed (h : HasCredit x s) :
    checkCredit x k go (reserved x s) = go (reserved x s) := by
  unfold checkCredit
  rw [port_reserved]
  exact if_neg (by rw [endTxn_inFlight]; exact Nat.not_le.mpr h)

theorem checkRight_refused {need : Need} (h : (rightsOf x.port s).grants need = false) :
    checkRight x k need go (reserved x s) = answered x
      (.reply x.tag k (if (rightsOf x.port s).violation = .absorb then .done else .denied) [])
      (raiseWithSup x.port .accessViolation s) := by
  have refused : ¬(rightsOf x.port (reserved x s)).grants need = true := by
    rw [show rightsOf x.port (reserved x s) = rightsOf x.port s from rfl, h]
    exact Bool.false_ne_true
  unfold checkRight raiseWithSup
  rw [if_neg refused, reply_raiseIf, answered_raiseIf, reply_reserved]
  rfl

theorem checkRight_passed {need : Need} (h : (rightsOf x.port s).grants need = true) :
    checkRight x k need go (reserved x s) = go (reserved x s) := if_pos h

theorem checkQuiesce_refused {r : ServiceReq} (c : reqClass r = .submit)
    (q : s.sup.quiesce ≠ .running) : checkQuiesce x r go (reserved x s) =
      answered x (.reply x.tag (reqKind r) .quiesced []) s :=
  (if_pos ⟨c, q⟩).trans (reply_reserved x _ _ _ s)

theorem joinUrgent_busy (b : Byte) (t : BitVec 56) (h : (port x.port s).urgent.isSome = true) :
    joinUrgent x b t (reserved x s) = answered x (.reply x.tag 10 .busy []) s := by
  unfold joinUrgent
  rw [port_reserved]
  exact (if_pos (by simpa using h)).trans (reply_reserved x _ _ _ s)

theorem joinUrgent_free (b : Byte) (t : BitVec 56) (h : (port x.port s).urgent = none) :
    joinUrgent x b t (reserved x s) = updPort x.port (fun p =>
      { p.endTxn x.clocked with
        reservations := p.reservations + 1
        inFlight := p.inFlight + 1
        urgent := some { tag := x.tag, slot := b, time := t } }) s := by
  unfold joinUrgent
  rw [port_reserved]
  refine (if_neg (by simp [h])).trans ?_
  simp only [reserved, updPort_updPort, endTxn_inFlight]

theorem joinQueue_reserved (r : ServiceReq) : joinQueue x r (reserved x s) =
    updPort x.port (fun p =>
      { p.endTxn x.clocked with
        reservations := p.reservations + 1
        inFlight := p.inFlight + 1
        queue := p.queue ++ [{ tag := x.tag, req := r }] }) s := by
  simp only [joinQueue, reserved, updPort_updPort, endTxn_inFlight, endTxn_queue]

end Checks

/-! ## The intake of a request whose port takes it -/

theorem intakeService_of_takes {x : Xfer} {s : State} (r : ServiceReq) (t : Takes x s) :
    intakeService x r s = checkCredit x (reqKind r) (checkRight x (reqKind r) (reqClass r).need
      (checkQuiesce x r (joinQueue x r))) (reserved x s) := takePlace_taken (.inl t.1) t.2

theorem intakeConvert_of_takes {x : Xfer} {s : State} (b : Byte) (n : BitVec 56) (t : Takes x s) :
    intakeConvert x b n s =
      checkCredit x 10 (checkRight x 10 .consume (joinUrgent x b n)) (reserved x s) :=
  takePlace_taken (.inl t.1) t.2

section Refusals

variable {x : Xfer} {s : State} {r : ServiceReq} {k : Nat}

theorem intakeService_no_credit (hk : (reqKind r).toNat = k) (t : Takes x s) (h : ¬HasCredit x s) :
    intakeService x r s = answered x (.reply x.tag (BitVec.ofNat 8 k) .noCredit []) s := by
  rw [← hk, ofNat_reqKind]
  exact (intakeService_of_takes r t).trans (checkCredit_refused h)

theorem intakeService_denied (hk : (reqKind r).toNat = k) (t : Takes x s) (c : HasCredit x s)
    (h : (rightsOf x.port s).grants (needOf k) = false) : intakeService x r s = answered x
      (.reply x.tag (BitVec.ofNat 8 k)
        (if (rightsOf x.port s).violation = .absorb then .done else .denied) [])
      (raiseWithSup x.port .accessViolation s) := by
  rw [← hk, need_of_kind] at h
  rw [← hk, ofNat_reqKind]
  exact (intakeService_of_takes r t).trans ((checkCredit_passed c).trans (checkRight_refused h))

theorem intakeService_quiesced (hk : (reqKind r).toNat = k) (submit : k ≤ 3) (t : Takes x s)
    (c : HasCredit x s) (h : (rightsOf x.port s).submit = true) (q : s.sup.quiesce ≠ .running) :
    intakeService x r s = answered x (.reply x.tag (BitVec.ofNat 8 k) .quiesced []) s := by
  have class_ : reqClass r = .submit := submit_of_kind r (hk ▸ submit)
  have right : (rightsOf x.port s).grants (reqClass r).need = true := by rw [class_]; exact h
  rw [← hk, ofNat_reqKind]
  exact (intakeService_of_takes r t).trans ((checkCredit_passed c).trans
    ((checkRight_passed right).trans (checkQuiesce_refused class_ q)))

end Refusals

end Sys2Proof.Machine

namespace Sys2Proof.Intake

open Sys2Proof.Machine Sys2Proof.Safety

/-- Settles O9, by the definitions of the frame that begins and of the release of select. -/
theorem aTransactionSendsTheOldestFrame : Obligations.ATransactionSendsTheOldestFrame := by
  refine ⟨fun s p => ?_, fun s x => ⟨rfl, fun idle => ?_, fun t busy => ?_⟩⟩
  · intro header frame
    have begins (t : Txn) (h : beginTxn p s = t) : exec (.transactionStart p) s =
        .next (updPort p (fun q => { q with txn := some t }) s) := by rw [← h]; rfl
    have framed (body : List Byte) : outboundBytes p body s = frame body := by
      simp only [outboundBytes, withCrc, statusHeader, bytesBE_two, freeCredits, headerFlags, frame,
        header, List.cons_append, List.nil_append]
    refine ⟨fun f rest out => begins _ ?_, fun out => begins _ ?_⟩
    · simp [beginTxn, out, framed]
    · simp [beginTxn, out, framed]
  · refine congrArg Host.Outcome.next (updPort_of_same ?_)
    rw [PortState.endTxn, idle]
  · intro carried
    refine ⟨fun queued whole => congrArg Host.Outcome.next (updPort_congr ?_),
      fun part => congrArg Host.Outcome.next (updPort_congr ?_)⟩
    · simp [PortState.endTxn, busy, queued, whole, Txn.sdo, carried]
    · have stays : (t.queued && decide (t.bytes.length ≤ x.clocked)) = false := by
        rcases part with idle | short
        · rw [idle, Bool.false_and]
        · rw [decide_eq_false (Nat.not_le.mpr short), Bool.and_false]
      simp [PortState.endTxn, busy, stays, Txn.sdo, carried]

/-- Settles O10, by the policy of the port and the place for the notice. -/
theorem frameErrorRaisesAndMayHalt : Obligations.FrameErrorRaisesAndMayHalt := by
  intro s p n f q base
  have raised : port p base = q.raise .frameError := by
    simp [base, port_raiseIf]
  have halted : (port p base).halted = (port p s).halted := by simp [raised, q]
  have full : (port p base).full = decide (12 ≤ q.out.length + q.reservations) := by
    rw [raised, full_eq, raise_out, raise_reservations]
  have halts (policy : (rightsOf p s).framePolicy = .halt) :
      exec (.frameError p n f) s = .next (updPort p (·.haltOn f) base) :=
    congrArg Host.Outcome.next (if_pos policy)
  refine ⟨fun keeps => ?_, fun policy running place => ?_, fun policy running noPlace => ?_⟩
  · by_cases policy : (rightsOf p s).framePolicy = .halt
    · have already : (port p s).halted = true := keeps.resolve_left (by rw [policy]; decide)
      rw [halts policy]
      refine congrArg Host.Outcome.next (updPort_of_same ?_)
      exact if_pos (halted.trans already)
    · exact congrArg Host.Outcome.next (if_neg policy)
  · rw [halts policy]
    refine congrArg Host.Outcome.next (updPort_congr ?_)
    simp [PortState.haltOn, halted, running, full, Nat.not_le.mpr place, PortState.queueFree]
  · rw [halts policy]
    refine congrArg Host.Outcome.next (updPort_congr ?_)
    simp [PortState.haltOn, halted, running, full, noPlace, PortState.drop]

/-- Settles O11: every request asks for a place first (`exec_of_placed`). -/
theorem haltedAndFullPortsTurnRequestsAway : Obligations.HaltedAndFullPortsTurnRequestsAway := by
  refine ⟨fun s i x k h => ?_, fun s x kind n taken place => ?_⟩
  · obtain ⟨wf, go, run, reset⟩ := asksForPlace_of_placed h
    have refused (n1 : k ≠ 31) (n2 : k ≠ 32) (n3 : k ≠ 33) : takenWhenHalted k = false :=
      Bool.eq_false_iff.mpr fun taken =>
        ((takenWhenHalted_iff k).mp taken).elim n1 fun h => h.elim n2 n3
    refine ⟨fun halted n1 n2 n3 place => ?_, fun halted n1 n2 n3 full => ?_,
      fun taken other full => ?_⟩
    · rw [run, refused n1 n2 n3, takePlace_halted halted place]
    · rw [run, refused n1 n2 n3, takePlace_halted_discarded halted full]
    · rw [run, reset other, takePlace_discarded full]
  · refine congrArg Host.Outcome.next ?_
    rw [takePlace_taken (taken.imp id (takenWhenHalted_iff kind).mpr) place, reply_reserved]

/-- Settles O12, check by check. -/
theorem creditRightAndQuiesceAreJudgedInOrder :
    Obligations.CreditRightAndQuiesceAreJudgedInOrder := by
  refine ⟨fun s i x k h takes => ?_, fun s i x k h lo hi takes right notSup => ?_⟩
  · intro no
    have c := Comes.of_request h
    have waits {t u : State} (run : exec i s = .next t) (e : t = u) : exec i s = .next u :=
      run.trans (congrArg _ e)
    refine ⟨fun lo hi credit => ?_, fun credit right => ?_, fun lo hi credit right quiesce => ?_,
      fun ten credit right busy => ?_⟩
    · refine c.elim (fun out => absurd out (not_outside lo (Nat.le_trans hi (by decide))))
        (fun r hk run => waits (run s) (intakeService_no_credit hk takes credit))
        (fun ten b t run => ?_) (fun above => absurd hi (Nat.not_le.mpr above))
      subst ten
      exact waits (run s) ((intakeConvert_of_takes b t takes).trans (checkCredit_refused credit))
    · have free (le : k ≤ 15) : HasCredit x s := credit.resolve_left (Nat.not_lt.mpr le)
      refine c.elim (fun out => ?_) (fun r hk run => ?_) (fun ten b t run => ?_)
        (fun lo hi owner run _ => ?_)
      · rw [need_of_outside out] at right
        cases right
      · exact waits (run s) (intakeService_denied hk takes (free (hk ▸ (reqKind_range r).2.1)) right)
      · subst ten
        exact waits (run s) ((intakeConvert_of_takes b t takes).trans
          ((checkCredit_passed (free (by decide))).trans (checkRight_refused (need := .consume) right)))
      · rw [need_of_supervisor k (Nat.lt_succ_of_le hi) lo] at right
        exact waits (run s) (intakeDirect_denied (.inl takes.1) takes.2 right)
    · have low (n : Nat) (lt : 3 < n) : ¬n ≤ k :=
        fun above => Nat.not_le.mpr lt (Nat.le_trans above hi)
      exact c.elim (fun out => absurd out (not_outside lo (Nat.le_trans hi (by decide))))
        (fun r hk run => waits (run s) (intakeService_quiesced hk hi takes credit right quiesce))
        (fun ten => absurd (Nat.le_of_eq ten.symm) (low 10 (by decide)))
        (fun above => absurd above (low 16 (by decide)))
    · subst ten
      refine c.elim (fun out => absurd out (by decide))
        (fun r hk => absurd hk (reqKind_range r).2.2) (fun _ b t run => ?_)
        (fun above => absurd above (by decide))
      exact waits (run s) ((intakeConvert_of_takes b t takes).trans ((checkCredit_passed credit).trans
        ((checkRight_passed (need := .consume) right).trans (joinUrgent_busy b t busy))))
  · have high (n : Nat) (lt : n < 17) : ¬k ≤ n := Nat.not_le.mpr (Nat.lt_of_lt_of_le lt lo)
    refine (Comes.of_request h).elim
      (fun out => absurd out (not_outside (Nat.le_trans (by decide) lo) hi))
      (fun r hk => absurd (hk ▸ (reqKind_range r).2.1) (high 15 (by decide)))
      (fun ten => absurd (Nat.le_of_eq ten) (high 10 (by decide)))
      (fun _ _ owner run refused => (run s).trans (congrArg Host.Outcome.next
        (intakeDirect_of_answer takes right (refused lo _ notSup))))

/-- Settles O13: every check is passed, and the request joins its queue. -/
theorem takenRequestsWaitForTheServicePath : Obligations.TakenRequestsWaitForTheServicePath := by
  refine ⟨fun s i x r h takes credit right quiesce => ?_, fun s x k t takes credit right free => ?_⟩
  · rw [exec_of_waiting h, intakeService_taken takes credit right quiesce, joinQueue_reserved]
  · refine congrArg Host.Outcome.next ?_
    rw [intakeConvert_of_takes k t takes, checkCredit_passed credit,
      checkRight_passed (need := .consume) right, joinUrgent_free k t free]

end Sys2Proof.Intake
end

section
/-! PROOFS. The service path (R166 to R168): the winner of a grant, what a grant does to the ports, and the reads READ_STATION and CONVERT (R31, R32). -/

namespace Sys2Proof.Machine

open Sys2Proof.Safety

/-! ## The winner of a grant (R166) -/

/-- The port found is the one earliest in the order of those that pass. -/
theorem find?_of_first {f : PortId → Bool} {p : PortId} (hf : f p = true) :
    ∀ {l : List PortId}, p ∈ l → (∀ q, l.idxOf q < l.idxOf p → f q = false) → l.find? f = some p
  | [], h, _ => by cases h
  | a :: l, h, first => by
    by_cases e : a = p
    · exact e ▸ List.find?_cons_of_pos (e ▸ hf)
    · have ahead : (a :: l).idxOf p = l.idxOf p + 1 := List.idxOf_cons_ne l e
      have fails : ¬f a = true := by
        rw [first a (by rw [List.idxOf_cons_self, ahead]; exact Nat.succ_pos _)]
        exact Bool.false_ne_true
      rw [List.find?_cons_of_neg fails]
      refine find?_of_first hf ((List.mem_cons.mp h).resolve_left (Ne.symm e)) fun q before => ?_
      by_cases c : a = q
      · exact c ▸ Bool.eq_false_iff.mpr fails
      · exact first q (by rw [ahead, List.idxOf_cons_ne l c]; exact Nat.succ_lt_succ before)

/-- The best head is the one whose score no head before it reaches and no head behind it exceeds. -/
theorem bestHead_of_best {s : State} {p : PortId} {n : Nat} (hp : portScore p s = some n) :
    ∀ {l : List PortId}, p ∈ l → (∀ q m, portScore q s = some m →
      m < n ∨ m = n ∧ l.idxOf p ≤ l.idxOf q) → bestHead s l = some (p, n)
  | [], h, _ => by cases h
  | a :: l, h, best => by
    unfold bestHead
    by_cases e : a = p
    · rw [e, hp]
      cases rest : bestHead s l with
      | none => rfl
      | some b =>
        have le : b.2 ≤ n := (best b.1 b.2 (bestHead_some rest)).elim Nat.le_of_lt fun h => h.1.le
        exact if_pos le
    · have ahead : (a :: l).idxOf p = l.idxOf p + 1 := List.idxOf_cons_ne l e
      have below (m : Nat) (hm : portScore a s = some m) : m < n :=
        (best a m hm).resolve_right fun h => by
          rw [List.idxOf_cons_self, ahead] at h; exact absurd h.2 (Nat.not_succ_le_zero _)
      rw [bestHead_of_best hp ((List.mem_cons.mp h).resolve_left (Ne.symm e)) fun q m hm => ?_]
      · cases score : portScore a s with
        | none => rfl
        | some m => exact if_neg (Nat.not_le.mpr (below m score))
      · by_cases c : a = q
        · exact .inl (below m (c ▸ hm))
        · refine (best q m hm).imp id fun h => ⟨h.1, ?_⟩
          rw [ahead, List.idxOf_cons_ne l c] at h
          exact Nat.le_of_succ_le_succ h.2

theorem portScore_of_empty {p : PortId} {s : State} (h : (port p s).queue = []) :
    portScore p s = none := by rw [portScore, h]; rfl

theorem bestHead_of_empty {s : State} (h : ∀ q, (port q s).queue = []) (l : List PortId) :
    bestHead s l = none := by
  cases best : bestHead s l with
  | none => rfl
  | some b => exact absurd ((portScore_of_empty (h b.1)).symm.trans (bestHead_some best)) nofun

/-- A waiting head that is overdue. -/
noncomputable def waitsOverdue (s : State) (p : PortId) : Bool := !(port p s).queue.isEmpty && (port p s).overdue

theorem waitsOverdue_false {s : State} {q : PortId}
    (h : (port q s).queue = [] ∨ (port q s).overdue = false) : waitsOverdue s q = false := by
  unfold waitsOverdue
  rcases h with e | e <;> rw [e]
  · rfl
  · exact Bool.and_false _

theorem winner_of_urgent {s : State} {p : PortId}
    (h : s.sched.order.find? (fun p => (port p s).urgent.isSome) = some p) :
    winner s = some (.urgent p) := by rw [winner, h]

theorem winner_of_no_urgent {s : State} (h : ∀ q, (port q s).urgent = none) :
    winner s = match s.sched.order.find? (waitsOverdue s) with
      | some p => some (.head p)
      | none => (bestHead s s.sched.order).map fun b => .head b.1 := by
  have noUrgent : s.sched.order.find? (fun p => (port p s).urgent.isSome) = none :=
    List.find?_eq_none.mpr fun q _ => by rw [h q]; exact Bool.false_ne_true
  rw [winner, noUrgent]
  rfl

theorem winner_of_no_overdue {s : State} (h : ∀ q, (port q s).urgent = none)
    (calm : ∀ q, (port q s).queue = [] ∨ (port q s).overdue = false) :
    winner s = (bestHead s s.sched.order).map fun b => .head b.1 := by
  rw [winner_of_no_urgent h, List.find?_eq_none.mpr fun q _ => by
    rw [waitsOverdue_false (calm q)]; exact Bool.false_ne_true]

/-! ## What a grant does to the ports (R168) -/

theorem lose_eq (t : Tuning) (p : PortState) : p.lose t =
    if p.queue = [] ∨ p.overdue = true then p
    else if p.age < t.ageMax then { p with age := min (p.age + t.ageStep) t.ageMax }
    else { p with guards := min (p.guards + 1) 15
                  overdue := decide (t.guardLimit ≤ min (p.guards + 1) 15) } := by
  unfold PortState.lose
  simp only [Bool.or_eq_true, List.isEmpty_iff]

theorem imap_congr {α β : Type} {n : Nat} {f g : Fin n → α → β} {v : Vector α n}
    (h : ∀ i, f i v[i] = g i v[i]) : imap f v = imap g v :=
  table_ext fun i => by rw [imap_get, imap_get]; exact h i

theorem sched_granted (p : PortId) (names : Option Slot) (c : Sched) :
    c.granted p names = { order := c.order.filter (· ≠ p) ++ [p], locality := names } := by
  unfold Sched.granted
  congr 2
  exact List.filter_congr fun q _ => by by_cases h : q = p <;> simp [h]

theorem grantsHead_eq {s : State} {p : PortId} {q : Queued} {rest : List Queued}
    (h : (port p s).queue = q :: rest) (names : Option Slot) : grantsHead p names s = { s with
      ports := imap (fun q ps =>
        if q = p then { ps with queue := rest, age := 0, guards := 0, overdue := false }
        else if ps.queue = [] ∨ ps.overdue = true then ps
        else if ps.age < (tuning s).ageMax then
          { ps with age := min (ps.age + (tuning s).ageStep) (tuning s).ageMax }
        else
          { ps with guards := min (ps.guards + 1) 15
                    overdue := decide ((tuning s).guardLimit ≤ min (ps.guards + 1) 15) }) s.ports
      sched := { order := s.sched.order.filter (· ≠ p) ++ [p], locality := names } } := by
  refine congrArg₂ (fun v c => { s with ports := v, sched := c }) (imap_congr fun r => ?_)
    (sched_granted p names s.sched)
  by_cases e : r = p
  · rw [if_pos e, if_pos e, PortState.popHead, e, show s.ports[p].queue = q :: rest from h]
    rfl
  · rw [if_neg e, if_neg e, lose_eq]

theorem grantsUrgent_eq (s : State) (p : PortId) (names : Option Slot) :
    grantsUrgent p names s = { s with
      ports := imap (fun q ps =>
        let lost : PortState :=
          if ps.queue = [] ∨ ps.overdue = true then ps
          else if ps.age < (tuning s).ageMax then
            { ps with age := min (ps.age + (tuning s).ageStep) (tuning s).ageMax }
          else
            { ps with guards := min (ps.guards + 1) 15
                      overdue := decide ((tuning s).guardLimit ≤ min (ps.guards + 1) 15) }
        if q = p then { lost with urgent := none } else lost) s.ports
      sched := { order := s.sched.order.filter (· ≠ p) ++ [p], locality := names } } := by
  refine congrArg₂ (fun v c => { s with ports := v, sched := c }) (imap_congr fun r => ?_)
    (sched_granted p names s.sched)
  dsimp only
  rw [lose_eq]

/-- `grantHead_of_answer`, the answer given by its parts. -/
theorem grantHead_of_owner {α : Type} {sel : ServiceReq → Option α}
    {owner : PortId → α → State → Answer} {s t : State} {p : PortId} {q : Queued}
    {rest : List Queued} {a : α} {c : Code} {d : List Field} (w : Wins p q rest s)
    (h : sel q.req = some a)
    (ho : owner p a (grantsHead p (reqNames q.req) s) = { st := t, code := c, data := d }) :
    grantHead sel owner s = granted p q.tag (reqKind q.req) c d t := grantHead_of_answer w h ho

/-! ## READ_STATION (R32, R79) -/

theorem eligible_eq (k : Slot) (s : State) : eligible k s =
    decide (((station k s).clk.state = .locked ∨ (station k s).clk.state = .tracking) ∧
      (station k s).sq.silent = false ∧ (zoneEntry (station k s).clk.zone s).mode ≠ .noWait) := by
  rw [Bool.eq_iff_iff, decide_eq_true_iff]
  simp [eligible, ClockState.canBeEligible, and_assoc]

theorem retimePlace_eq (k : Slot) (s : State) : retimePlace k s =
    .num 1 (if s.retime.running.map (·.slot) = some k then Config.retimeRunning.toNat
      else if k ∈ s.retime.queue then s.retime.queue.idxOf k + 1
      else Config.retimeNotQueued.toNat) := by
  unfold retimePlace
  split
  · rfl
  · split <;> rfl

theorem retimeReportData_eq (r : Option RetimeReport) : retimeReportData r = match r with
    | none => [.optNum 2 none, .num 2 0, .num 2 0, .num 2 0, .num 2 0, .num 2 0, .num 2 0,
        .num 1 0, .num 7 0]
    | some r => [.optNum 2 (some r.target.toNat), .num 2 r.counts.moved, .num 2 r.counts.updated,
        .num 2 r.counts.carried, .num 2 r.counts.misplaced, .num 2 r.counts.skipped,
        .num 2 r.counts.leftInSealed, .num 1 r.restarts, .num 7 r.time] := by cases r <;> rfl

theorem heldNumber_eq (i : Nat) (s : State) : ((block i s).map fun b => b.seq.toNat).getD 0 =
    match block i s with
    | none => 0
    | some b => b.seq.toNat := by cases block i s <;> rfl

end Sys2Proof.Machine

namespace Sys2Proof.ServicePath

open Sys2Proof.Machine Sys2Proof.Safety

/-- Settles O14: an urgent slot, then an overdue head, then the best score; each found by its place in the grant order. -/
theorem theWinnerIsUrgentThenOverdueThenBestScored :
    Obligations.TheWinnerIsUrgentThenOverdueThenBestScored := by
  intro s perm place
  have inOrder (p : PortId) : p ∈ s.sched.order := perm.mem_iff.mpr (by revert p; decide)
  refine ⟨fun p occupied first => ?_, fun free => ⟨fun p waits overdue first => ?_, fun calm =>
    ⟨fun p n score best => ?_, fun empty => ?_⟩⟩, fun p q l queue => ?_⟩
  · exact winner_of_urgent
      (find?_of_first occupied (inOrder p) fun q before => by rw [first q before]; rfl)
  · have waiting : waitsOverdue s p = true := by simp [waitsOverdue, waits, overdue]
    rw [winner_of_no_urgent free, find?_of_first waiting (inOrder p) fun q before =>
      waitsOverdue_false (first q before)]
  · rw [winner_of_no_overdue free calm, bestHead_of_best score (inOrder p) best]
    rfl
  · rw [winner_of_no_overdue free calm, bestHead_of_empty empty]
    rfl
  · rw [portScore, queue]
    rfl

/-- Settles O15: the grant leaves what the reply is read from (`grantsHead` changes only ports and scheduler), and each part of the reply is that of its table. -/
theorem readStationGrantAnswersAndAgesTheLosers :
    Obligations.ReadStationGrantAnswersAndAgesTheLosers := by
  intro s p tag k rest w report clock sequencing fields
  refine congrArg Host.Outcome.next ?_
  have data (j : Slot) : clockData j s ++ sequencingData j s = fields j := by
    simp only [clockData, sequencingData, eligible_eq, retimePlace_eq, retimeReportData_eq,
      heldNumber_eq]
    rfl
  rw [← grantsHead_eq w.2 (slotOf k)]
  refine grantHead_of_owner (a := k) w rfl ?_
  change readStationOwner p k (grantsHead p (slotOf k) s) = _
  unfold readStationOwner
  cases slotOf k with
  | none => rfl
  | some j =>
    exact congrArg (fun l : List Machine.Field => Answer.mk (grantsHead p (some j) s) .done
      (if (station j s).clk.state = .vacant then l.map Field.zero else l)) (data j)

/-- Settles O16: the judgement of CONVERT in the order of its refusals. -/
theorem convertAnswersFromThePresentModel : Obligations.ConvertAnswersFromThePresentModel := by
  refine ⟨fun s p u w => ?_, grantsUrgent_eq⟩
  intro g
  have run {ans : Answer} (ho : convertOwner u g = ans) :
      exec .convertGrant s = .next (granted p u.tag 10 ans.code ans.data ans.st) := by
    rw [← ho]
    exact congrArg Host.Outcome.next (grantUrgent_wins w)
  refine ⟨fun noSlot => run (ans := refuse .badRequest g [.num 1 0]) ?_, fun k hk =>
    ⟨fun vacant => run (ans := refuse .noStation g) ?_,
      fun present unanchored => run (ans := refuse .noModel g) ?_, fun a present anchor => ?_⟩⟩
  · simp only [convertOwner, noSlot]
  · simp only [convertOwner, hk]
    exact if_pos vacant
  · simp only [convertOwner, hk]
    exact (if_neg present).trans (if_pos unanchored)
  · have model : (station k s).clk.anchor ≠ none := by rw [anchor]; exact nofun
    have value : (station k s).clk.convert u.time.toNat =
        min (u.time.toNat + (station k s).clk.offset +
              (((u.time.toNat : Int) - a) * (station k s).clk.drift).tdiv 1000000000).toNat
              (2 ^ 56 - 1) := by rw [ClockHalf.convert, anchor]; rfl
    rw [← value]
    refine run (ans := { st := g, code := .done, data := _ }) ?_
    simp only [convertOwner, hk]
    exact (if_neg present).trans (if_neg model)

end Sys2Proof.ServicePath
end

section
/-! PROOFS. The model aging sweep (R44 to R49): what the sweep of a list of records changes, and the statement. -/

namespace Sys2Proof.Machine

open Sys2Proof.Safety

/-! ## One record -/

theorem canBeEligible_iff (c : ClockState) :
    c.canBeEligible = true ↔ c = .locked ∨ c = .tracking := by
  simp [ClockState.canBeEligible]

/-- A LOCKED record whose last accepted report is too old, TRACKING (R46). -/
noncomputable def agedOut (t : Tuning) (n : Nat) (c : ClockHalf) : ClockHalf :=
  if c.state = .locked ∧ t.reportAge * 1000000 < n - c.lastAccepted.getD 0 then
    { c.grow t n with state := .tracking, lockOff := 0 } else c.grow t n

/-- A LOCKED or TRACKING record above the ceiling, UNRELIABLE (R47). -/
noncomputable def widened (t : Tuning) (c : ClockHalf) : ClockHalf :=
  if (c.state = .locked ∨ c.state = .tracking) ∧ t.ceiling < c.uncertainty then
    { c with state := .unreliable, lockOff := 0 } else c

theorem tooOld_iff (t : Tuning) (n : Nat) (c : ClockHalf) : (c.grow t n).tooOld t n = true ↔
    c.state = .locked ∧ t.reportAge * 1000000 < n - c.lastAccepted.getD 0 :=
  Bool.and_eq_true_iff.trans (and_congr beq_iff_eq decide_eq_true_iff)

theorem tooWide_iff (t : Tuning) (c : ClockHalf) : c.tooWide t = true ↔
    (c.state = .locked ∨ c.state = .tracking) ∧ t.ceiling < c.uncertainty :=
  Bool.and_eq_true_iff.trans (and_congr (canBeEligible_iff c.state) decide_eq_true_iff)

/-- Aging a LOCKED, TRACKING or UNRELIABLE record, in the order of R45 to R47. -/
theorem age_of_aged {c : ClockHalf} (t : Tuning) (n : Nat)
    (h : c.state = .locked ∨ c.state = .tracking ∨ c.state = .unreliable) :
    c.age t n = widened t (agedOut t n c) := by
  have aged : c.state.aged = true := by rcases h with e | e | e <;> rw [e] <;> rfl
  have out : (if (c.grow t n).tooOld t n then
      { c.grow t n with state := .tracking, lockOff := 0 } else c.grow t n) = agedOut t n c :=
    if_congr (tooOld_iff t n c) rfl rfl
  exact (if_pos aged).trans ((if_congr (tooWide_iff t _) rfl rfl).trans (congrArg (widened t) out))

theorem age_of_not_aged {c : ClockHalf} (t : Tuning) (n : Nat)
    (h : c.state = .acquiring ∨ c.state = .quarantined) : c.age t n = c := by
  have stays : ¬c.state.aged = true := by rcases h with e | e <;> rw [e] <;> exact Bool.false_ne_true
  exact if_neg stays

/-! ## The records taken -/

/-- The clock half that a sweep at now leaves of a record it takes. -/
noncomputable def agedClk (s : State) (k : Slot) : ClockHalf := (station k s).clk.age (tuning s) (now s)

/-- Whether a sweep that takes a record changes its clock state (R48). -/
noncomputable def sweptMoves (s : State) (k : Slot) : Bool :=
  decide ((agedClk s k).state ≠ (station k s).clk.state)

/-- Whether a sweep that takes a record ends its eligibility (R15). -/
noncomputable def sweptLoses (s : State) (k : Slot) : Bool :=
  (station k s).clk.state.canBeEligible && !(agedClk s k).state.canBeEligible

/-- Only the stations, the ports and the notices differ. -/
def SweepKeeps (s t : State) : Prop :=
  t = { s with stations := t.stations, ports := t.ports, notices := t.notices }

/-- The records of a list aged, with their causes and notices (R45 to R48). -/
def Swept (l : List Slot) (s t : State) : Prop :=
  SweepKeeps s t ∧
  (∀ k, station k t = if k ∈ l then { station k s with clk := agedClk s k } else station k s) ∧
  (∀ p, port p t = if isSup p s = true then
    (PortState.raise · .stationState)^[(l.filter (sweptMoves s)).length] (port p s) else port p s) ∧
  t.notices = s.notices ++ (l.filter (sweptLoses s)).map
    fun k => { slot := k, status := .absentState }

namespace SweepKeeps

variable {s t u : State}

theorem refl (s : State) : SweepKeeps s s := rfl
theorem trans (a : SweepKeeps s t) (b : SweepKeeps t u) : SweepKeeps s u := by
  rw [SweepKeeps, b, a]
theorem ite {c : Prop} [Decidable c] (a : SweepKeeps s t) (b : SweepKeeps s u) :
    SweepKeeps s (if c then t else u) := by split <;> assumption
theorem tuning (h : SweepKeeps s t) : tuning t = tuning s :=
  (congrArg Machine.tuning h :)
theorem now (h : SweepKeeps s t) : now t = now s := (congrArg Machine.now h :)
theorem sweep (h : SweepKeeps s t) : t.sweep = s.sweep := (congrArg State.sweep h :)
theorem rest (h : SweepKeeps s t) : t.tb = s.tb ∧ t.pool = s.pool ∧ t.ring = s.ring ∧
    t.groups = s.groups ∧ t.sup = s.sup ∧ t.sched = s.sched ∧ t.retime = s.retime ∧
    t.silenceClock = s.silenceClock := by
  rw [h]
  exact ⟨rfl, rfl, rfl, rfl, rfl, rfl, rfl, rfl⟩
theorem isSup (h : SweepKeeps s t) (p : PortId) : isSup p t = isSup p s :=
  (congrArg (Machine.isSup p) h :)
theorem agedClk (h : SweepKeeps s t) {k : Slot} (same : station k t = station k s) :
    agedClk t k = agedClk s k := by
  rw [Machine.agedClk, same, h.tuning, h.now, Machine.agedClk]

end SweepKeeps

namespace Swept

variable {l : List Slot} {k : Slot} {s t u : State}

theorem station_of_mem (h : Swept l s t) (m : k ∈ l) :
    station k t = { station k s with clk := agedClk s k } := (h.2.1 k).trans (if_pos m)
theorem station_of_not_mem (h : Swept l s t) (m : k ∉ l) : station k t = station k s :=
  (h.2.1 k).trans (if_neg m)

theorem nil (s : State) : Swept [] s s :=
  ⟨.refl s, fun _ => (if_neg List.not_mem_nil).symm, fun _ => (ite_self _).symm,
    (List.append_nil _).symm⟩

theorem cons (h : k ∉ l) (a : Swept [k] s t) (b : Swept l t u) : Swept (k :: l) s u := by
  have other {j : Slot} (m : j ∈ l) : j ∉ [k] := fun e => h (List.mem_singleton.mp e ▸ m)
  have same {j : Slot} (m : j ∈ l) := a.station_of_not_mem (other m)
  have clks {j : Slot} (m : j ∈ l) := a.1.agedClk (same m)
  have moves : l.filter (sweptMoves t) = l.filter (sweptMoves s) :=
    List.filter_congr fun j m => by rw [sweptMoves, clks m, same m, sweptMoves]
  have loses : l.filter (sweptLoses t) = l.filter (sweptLoses s) :=
    List.filter_congr fun j m => by rw [sweptLoses, clks m, same m, sweptLoses]
  refine ⟨a.1.trans b.1, fun j => ?_, fun p => ?_, ?_⟩
  · by_cases m : j ∈ l
    · rw [b.station_of_mem m, if_pos (List.mem_cons_of_mem k m), clks m, same m]
    · exact (b.station_of_not_mem m).trans ((a.2.1 j).trans (if_congr
        (List.mem_singleton.trans (List.mem_cons.trans (or_iff_left m)).symm) rfl rfl))
  · rw [b.2.2.1, a.2.2.1, a.1.isSup, moves]
    split
    · rw [← Function.iterate_add_apply, Nat.add_comm, ← List.length_append, ← List.filter_append,
        List.singleton_append]
    · rfl
  · rw [b.2.2.2, a.2.2.2, loses, List.append_assoc, ← List.map_append, ← List.filter_append,
      List.singleton_append]

end Swept

theorem noticeIfLost_eq (k : Slot) (old new : ClockState) (s : State) : noticeIfLost k old new s =
    { s with notices := if (old.canBeEligible && !new.canBeEligible) = true
        then s.notices ++ [{ slot := k, status := .absentState }] else s.notices } := by
  unfold noticeIfLost
  split <;> rfl

theorem raiseSup_if {c : Prop} [Decidable c] {b : Bool} (h : b = true ↔ c) (x : Cause) (s : State) :
    (if c then raiseSup x s else s) =
      { s with ports := if b = true then (raiseSup x s).ports else s.ports } := by
  rw [← if_congr h rfl rfl]
  split <;> rfl

theorem sweepOne_eq (s : State) (k : Slot) : sweepOne s k = { s with
    stations := put s.stations k { station k s with clk := agedClk s k }
    ports := if sweptMoves s k = true then (raiseSup .stationState s).ports else s.ports
    notices := if sweptLoses s k = true then s.notices ++ [{ slot := k, status := .absentState }]
      else s.notices } :=
  (noticeIfLost_eq k _ _ _).trans (congrArg (fun u : State => ({ u with
    notices := if sweptLoses s k = true then u.notices ++ [{ slot := k, status := .absentState }]
      else u.notices } : State)) (raiseSup_if decide_eq_true_iff .stationState (updClk k (fun _ => agedClk s k) s)))

theorem swept_sweepOne (s : State) (k : Slot) : Swept [k] s (sweepOne s k) := by
  rw [sweepOne_eq]
  refine ⟨rfl, fun j => ?_, fun p => ?_, ?_⟩
  · refine (put_get ..).trans ?_
    by_cases e : j = k
    · rw [if_pos e, if_pos (List.mem_singleton.mpr e), e]
    · rw [if_neg e, if_neg (mt List.mem_singleton.mp e)]
      rfl
  · cases e : sweptMoves s k with
    | true => rw [List.filter_cons_of_pos e]; exact port_raiseIf ..
    | false => rw [List.filter_cons_of_neg (e ▸ Bool.false_ne_true)]; exact (ite_self _).symm
  · cases e : sweptLoses s k with
    | true => rw [List.filter_cons_of_pos e]; rfl
    | false => rw [List.filter_cons_of_neg (e ▸ Bool.false_ne_true)]; exact (List.append_nil _).symm

theorem swept_foldl : ∀ {l : List Slot}, l.Nodup → ∀ s : State, Swept l s (l.foldl sweepOne s)
  | [], _, s => .nil s
  | k :: _, h, s => .cons (List.nodup_cons.mp h).1 (swept_sweepOne s k)
      (swept_foldl (List.nodup_cons.mp h).2 _)

theorem sweepSlots_nodup (s : State) : (sweepSlots s).Nodup :=
  (((List.nodup_finRange 64).map (add_right_injective s.sweep.cursor)).filter _).take


theorem sweepSlots_eq (s : State) : sweepSlots s =
    (((List.finRange 64).map (s.sweep.cursor + ·)).filter fun k =>
      decide ((station k s).clk.state ≠ .vacant)).take (tuning s).sweepK :=
  congrArg (List.take _) (List.filter_congr fun k _ => by rw [bne, decide_not]; rfl)

theorem not_vacant_of_taken {k : Slot} {s : State} (h : k ∈ sweepSlots s) :
    (station k s).clk.state ≠ .vacant := by
  rw [sweepSlots_eq] at h
  exact of_decide_eq_true (List.mem_filter.mp (List.mem_of_mem_take h)).2

theorem sweep_eq (s : State) : sweep s = { (sweepSlots s).foldl sweepOne s with
    sweep := { s.sweep with
      cursor := match (sweepSlots s).getLast? with
        | some k => k + 1
        | none => s.sweep.cursor } } := by
  have kept := (swept_foldl (sweepSlots_nodup s) s).1.sweep
  unfold sweep
  dsimp only
  cases (sweepSlots s).getLast? with
  | none => exact congrArg (fun w => ({ (sweepSlots s).foldl sweepOne s with sweep := w } : State)) kept
  | some k => exact congrArg (fun w => ({ (sweepSlots s).foldl sweepOne s with
      sweep := { w with cursor := k + 1 } } : State)) kept

/-- A sweep ages the records it takes, and moves its cursor (R44 to R48). -/
theorem swept_sweep (s : State) :
    Swept (sweepSlots s) s { sweep s with sweep := s.sweep } := by
  have swept := swept_foldl (sweepSlots_nodup s) s
  have kept : { sweep s with sweep := s.sweep } = (sweepSlots s).foldl sweepOne s := by
    rw [sweep_eq]
    exact congrArg (fun w => ({ (sweepSlots s).foldl sweepOne s with sweep := w } : State))
      swept.1.sweep.symm
  exact kept ▸ swept

theorem station_sweep_of_taken {k : Slot} {s : State} (h : k ∈ sweepSlots s) :
    station k (sweep s) = { station k s with clk := agedClk s k } := (swept_sweep s).station_of_mem h

theorem notices_sweep (s : State) : (sweep s).notices = s.notices ++ ((sweepSlots s).filter fun k =>
    (station k s).clk.state.canBeEligible && !(station k (sweep s)).clk.state.canBeEligible).map
      (fun k => { slot := k, status := .absentState }) :=
  (swept_sweep s).2.2.2.trans (congrArg (fun l : List Slot =>
    s.notices ++ l.map fun k => ({ slot := k, status := .absentState } : Notice))
    (List.filter_congr fun k h => by rw [station_sweep_of_taken h, sweptLoses]))

theorem port_sweep (p : PortId) (s : State) : port p (sweep s) =
    if isSup p s = true then (PortState.raise · .stationState)^[((sweepSlots s).filter fun k =>
      decide ((station k (sweep s)).clk.state ≠ (station k s).clk.state)).length] (port p s)
    else port p s :=
  ((swept_sweep s).2.2.1 p).trans (congrArg (fun l : List Slot => if isSup p s = true then
    (PortState.raise · .stationState)^[l.length] (port p s) else port p s)
    (List.filter_congr fun k h => by rw [station_sweep_of_taken h, sweptMoves]))

/-! ## The counts of a reply (R49) -/

theorem length_filter_zip_map {α β : Type} (f : α → β) (P : α × β → Bool) (l : List α) :
    ((l.zip (l.map f)).filter P).length = (l.filter fun a => P (a, f a)).length := by
  induction l with
  | nil => rfl
  | cons a l ih =>
    rw [List.map_cons, List.zip_cons_cons, List.filter_cons, List.filter_cons]
    cases P (a, f a) with
    | true => exact congrArg (· + 1) ih
    | false => exact ih

theorem tooOld_grow (t : Tuning) (n : Nat) (c : ClockHalf) : (c.grow t n).tooOld t n =
    (c.state == .locked && decide (seconds t.reportAge < n - c.lastAccepted.getD 0)) := rfl

theorem aged_and_locked (c : ClockState) (old : Bool) :
    (c.aged && (c == .locked && old)) = (c == .locked && old) := by cases c <;> rfl

theorem aged_and_tooOld (t : Tuning) (n : Nat) (c : ClockHalf) :
    (c.state.aged && (c.grow t n).tooOld t n) =
      (c.state == .locked && decide (t.reportAge * 1000000 < n - c.lastAccepted.getD 0)) := by
  rw [tooOld_grow, aged_and_locked, seconds]

theorem startSweepOwner_grantsHead (p : PortId) (n : Option Slot) (s : State) :
    startSweepOwner (grantsHead p n s) =
    { st := sweep (grantsHead p n s), code := .done, data :=
      let clks := (sweepSlots s).map fun k => (station k s).clk
      let after := (sweepSlots s).map fun k => (station k (sweep s)).clk
      [.num 1 clks.length, .num 1 (clks.filter fun c => c.state.aged).length,
       .num 1 (clks.filter fun c => c.state == .locked &&
         decide ((tuning s).reportAge * 1000000 < now s - c.lastAccepted.getD 0)).length,
       .num 1 ((clks.zip after).filter fun e =>
         e.1.state != .unreliable && e.2.state == .unreliable).length,
       .num 1 (sweep s).sweep.cursor.val] } := by
  have after : ((sweepSlots s).map fun k => (station k (sweep s)).clk) =
      ((sweepSlots s).map fun k => (station k s).clk).map (·.age (tuning s) (now s)) := by
    rw [List.map_map]
    exact List.map_congr_left fun k h => congrArg Station.clk (station_sweep_of_taken h)
  have counts : sweepCounts (grantsHead p n s) = sweepCounts s := rfl
  have cursor : (sweep (grantsHead p n s)).sweep.cursor = (sweep s).sweep.cursor := by
    rw [sweep_eq, sweep_eq]
    rfl
  simp only [startSweepOwner, counts, cursor]
  simp only [sweepCounts, after, length_filter_zip_map, aged_and_tooOld]

theorem exec_intervalDeadline_of_passed {s : State} {d : Nat} (h : s.sweep.deadline = some d)
    (passed : d ≤ now s) : exec .intervalDeadline s = .next { sweep s with sweep := { (sweep s).sweep with
      deadline := some (min (now s + (tuning s).sweepN * 1000000) (2 ^ 56 - 1)) } } :=
  if_pos (by rw [h]; exact decide_eq_true passed)

theorem exec_intervalDeadline_of_early {s : State}
    (h : s.sweep.deadline = none ∨ ∃ d ∈ s.sweep.deadline, now s < d) :
    exec .intervalDeadline s = .next s := by
  refine if_neg ?_
  rcases h with none | ⟨d, h, early⟩
  · rw [none]
    exact Bool.false_ne_true
  · rw [h]
    exact fun passed => absurd (of_decide_eq_true passed) (Nat.not_le.mpr early)

theorem exec_startSweepGrant_of_owner {s t : State} {p : PortId} {tag : Byte} {rest : List Queued}
    {c : Code} {d : List Machine.Field} (w : Wins p { tag := tag, req := .startSweep } rest s)
    (h : ifSupervisor p startSweepOwner (grantsHead p none s) = { st := t, code := c, data := d }) :
    exec .startSweepGrant s = .next (granted p tag 15 c d t) :=
  congrArg Host.Outcome.next (grantHead_of_owner (a := ()) w rfl h)

end Sys2Proof.Machine

namespace Sys2Proof.Sweeps

open Sys2Proof.Machine Sys2Proof.Safety

/-- Settles O18: the records taken by `swept_sweep`; the triggers by their definitions. -/
theorem aSweepAgesTheTakenRecords : Obligations.ASweepAgesTheTakenRecords := by
  refine ⟨fun s => ?_, fun s => ⟨fun d => exec_intervalDeadline_of_passed,
    exec_intervalDeadline_of_early, fun pulse reached =>
      congrArg Host.Outcome.next (if_pos ⟨pulse, reached⟩),
    fun p tag rest w => ⟨fun free => exec_startSweepGrant_of_owner w (ifSupervisor_of_not_isSup _ free),
      fun sup => exec_startSweepGrant_of_owner w
        ((ifSupervisor_of_isSup (s := grantsHead p none s) _ sup).trans
          (startSweepOwner_grantsHead p none s))⟩⟩⟩
  intro changed
  exact ⟨sweepSlots_eq s, fun k h => by
      intro c c1 c2 c3
      exact ⟨fun aged => (station_sweep_of_taken h).trans
        (congrArg (fun c => { station k s with clk := c }) (age_of_aged _ _ aged)),
        fun frozen => (station_sweep_of_taken h).trans
          (congrArg (fun c => { station k s with clk := c }) (age_of_not_aged _ _ frozen))⟩,
    fun k h => (swept_sweep s).station_of_not_mem h, List.length_take_le _ _, sweepSlots_nodup s,
    fun k h => not_vacant_of_taken h, congrArg State.sweep (sweep_eq s), notices_sweep s,
    fun p => port_sweep p s, (swept_sweep s).1.rest⟩

end Sys2Proof.Sweeps
end

section
/-! PROOFS. Timing reports (R17 to R29): what a grant leaves of the outbound queues, the judgement of a report in closed form, and the statements. -/

namespace Sys2Proof.Machine

open Sys2Proof.Safety

/-! ## What leaves the outbound queues -/

/-- The outbound queue of every port as it was. -/
def OutSame (s t : State) : Prop := ∀ q : PortId, (port q t).out = (port q s).out

theorem OutSame.of_ports {s t : State} (h : t.ports = s.ports) : OutSame s t :=
  fun q => by rw [port_of_ports h]

theorem OutSame.trans {s t u : State} (a : OutSame s t) (b : OutSame t u) : OutSame s u :=
  fun q => (b q).trans (a q)

theorem OutSame.ite {s t u : State} {c : Prop} [Decidable c] (a : OutSame s t) (b : OutSame s u) :
    OutSame s (if c then t else u) := by split <;> assumption

theorem OutSame.raiseIf {s t : State} (a : OutSame s t) (sel : PortId → Bool) (c : Cause) :
    OutSame s (raiseIf sel c t) :=
  fun q => by rw [port_raiseIf_keeps]; exact a q

theorem OutSame.raiseWithSup {s t : State} (a : OutSame s t) (p : PortId) (c : Cause) :
    OutSame s (raiseWithSup p c t) := a.raiseIf _ c

theorem OutSame.noticeIfLost {s t : State} (a : OutSame s t) (k : Slot) (old new : ClockState) :
    OutSame s (noticeIfLost k old new t) := .ite (a.trans (.of_ports rfl)) a

theorem ports_startRetime (s : State) : (startRetime s).ports = s.ports := by
  unfold startRetime
  split <;> rfl

theorem ports_ite {c : Prop} [Decidable c] {s t u : State} (a : t.ports = s.ports)
    (b : u.ports = s.ports) : (if c then t else u).ports = s.ports := by split <;> assumption

theorem ports_retimeNotice (k : Slot) (s : State) : (retimeNotice k s).ports = s.ports := by
  unfold retimeNotice
  cases s.retime.running with
  | some r => exact ports_ite rfl (ports_ite rfl (ports_ite rfl rfl))
  | none => exact ports_ite rfl (ports_ite (ports_startRetime _) rfl)

theorem outSame_applyReport (p : PortId) (k : Slot) (res : ReportResult) (s : State) :
    OutSame s (applyReport p k res s) := by
  have s1 : OutSame s (updClk k (fun _ => res.clk) s) := .of_ports rfl
  have s2 := OutSame.ite (c := res.code = .stepTaken) (s1.raiseWithSup p .stepTaken) s1
  have s3 := OutSame.ite (c := res.faulted = true) (s2.raiseWithSup p .stationFault) s2
  have s4 := OutSame.ite (c := res.clk.state ≠ (station k s).clk.state)
    (s3.raiseWithSup p .stationState) s3
  have s5 := s4.noticeIfLost k (station k s).clk.state res.clk.state
  exact .ite (s5.trans (.of_ports (ports_retimeNotice k _))) s5

theorem outSame_tryQuiesceGrant (s : State) : OutSame s (tryQuiesceGrant s) := by
  unfold tryQuiesceGrant
  split
  · exact .ite (.of_ports rfl) (OutSame.raiseIf (.of_ports rfl) _ _)
  · exact .of_ports rfl

theorem outSame_grantsHead (p : PortId) (n : Option Slot) (s : State) :
    OutSame s (grantsHead p n s) := fun q => by
  rw [port_grantsHead]
  split
  · rfl
  · rw [lose_keeps]

theorem out_granted (p : PortId) (tag k : Byte) (c : Code) (d : List Machine.Field) (s : State) :
    (port p (granted p tag k c d s)).out = (port p s).out ++ [.reply tag k c d] := by
  rw [granted, port_updPort_self]

/-! ## The grant of a report -/

theorem exec_submitReportGrant_of_owner {s t : State} {p : PortId} {tag : Byte} {r : ReportReq}
    {rest : List Queued} {c : Code} {d : List Machine.Field}
    (w : Wins p { tag := tag, req := .submitReport r } rest s)
    (ho : submitReportOwner p r (grantsHead p (slotOf r.slot) s) = { st := t, code := c, data := d }) :
    exec .submitReportGrant s = .next (tryQuiesceGrant (granted p tag 2 c d t)) :=
  congrArg (fun u => Host.Outcome.next (tryQuiesceGrant u)) (grantHead_of_owner (a := r) w rfl ho)

theorem submitReportOwner_of_no_slot {r : ReportReq} (p : PortId) (s : State)
    (h : slotOf r.slot = none) : submitReportOwner p r s =
      refuse .badRequest s (reportData r.slot .vacant none ++ [.num 1 0]) := by
  rw [submitReportOwner, h]

theorem submitReportOwner_of_refused {p : PortId} {r : ReportReq} {s : State} {k : Slot} {c : Code}
    (hk : slotOf r.slot = some k)
    (h : reportRefusal r.ts.toNat r.tn.toNat (station k s).clk = some c) :
    submitReportOwner p r s = refuse c s (reportData r.slot (station k s).clk none) := by
  simp only [submitReportOwner, hk, h]

/-- A report is stale at or before the mark of the anchor (R18). -/
theorem stale_iff {a : Option Nat} {n : Nat} :
    (a.map fun a => decide (n ≤ a)) = some true ↔ ∃ b, a = some b ∧ n ≤ b := by
  cases a <;> simp

section Refusals

variable {ts tn : Nat} {c : ClockHalf}

theorem reportRefusal_of_vacant (h : c.state = .vacant) :
    reportRefusal ts tn c = some .noStation := if_pos h

theorem reportRefusal_of_quarantined (h : c.state = .quarantined) :
    reportRefusal ts tn c = some .quarantinedStation :=
  (if_neg (by rw [h]; exact nofun)).trans (if_pos h)

theorem reportRefusal_of_stale {a : Nat} (v : c.state ≠ .vacant) (q : c.state ≠ .quarantined)
    (h : c.anchor = some a) (le : ts ≤ a) : reportRefusal ts tn c = some .staleReport :=
  (if_neg v).trans ((if_neg q).trans (if_pos (stale_iff.mpr ⟨a, h, le⟩)))

theorem reportRefusal_of_fresh (v : c.state ≠ .vacant) (q : c.state ≠ .quarantined)
    (h : ∀ a ∈ c.anchor, a < ts) : reportRefusal ts tn c =
      if (tn : Int) - ts < -2147483648 ∨ 2147483647 < (tn : Int) - ts then some .offsetRange
      else none :=
  (if_neg v).trans ((if_neg q).trans (if_neg fun stale => by
    obtain ⟨a, ha, le⟩ := stale_iff.mp stale
    exact absurd (h a ha) (Nat.not_lt.mpr le)))

theorem reportRefusal_of_in_range (v : c.state ≠ .vacant) (q : c.state ≠ .quarantined)
    (h : ∀ a ∈ c.anchor, a < ts) (lo : -2147483648 ≤ (tn : Int) - ts)
    (hi : (tn : Int) - ts ≤ 2147483647) : reportRefusal ts tn c = none :=
  (reportRefusal_of_fresh v q h).trans
    (if_neg fun out => out.elim (Int.not_lt.mpr lo) (Int.not_lt.mpr hi))

end Refusals

/-! ## The judgement of a report -/

/-- The outcomes of a report that is gated (R20 to R26). -/
theorem judgeReport_code {t : Tuning} {n ts tn : Nat} {lock : Bool} {c : ClockHalf}
    (h : ¬(c.state = .acquiring ∧ c.anchor = none)) :
    (judgeReport t n ts tn lock c).code = .accepted ∨ (judgeReport t n ts tn lock c).code = .rejected ∨
      (judgeReport t n ts tn lock c).code = .stepTaken := by
  unfold judgeReport rejectReport
  dsimp only
  rw [if_neg h]
  split
  · exact .inl rfl
  · split
    · exact .inr (.inr rfl)
    · split
      · exact .inr (.inl rfl)
      · exact .inr (.inl rfl)

/-- A station time converted with an anchored model (R30). -/
theorem convert_of_anchor {c : ClockHalf} {a : Nat} (h : c.anchor = some a) (n : Nat) :
    c.convert n = min (n + c.offset + (((n : Int) - a) * c.drift).tdiv 1000000000).toNat
      (2 ^ 56 - 1) := by
  rw [ClockHalf.convert, h]
  rfl

theorem judgeReport_of_anchor {t : Tuning} {n ts tn a : Nat} {lock : Bool} {c : ClockHalf}
    (h : c.anchor = some a) : judgeReport t n ts tn lock c =
      if ((tn : Int) - c.convert ts).natAbs ≤ t.baseGate + c.uncertainty then
        { clk := (c.accepted t n ts (tn - ts) (tn - c.convert ts)).settle t lock (c.acquisition + 1),
          code := .accepted, residual := some (tn - c.convert ts), faulted := false }
      else rejectReport t n ts (tn - ts) lock (tn - c.convert ts) c :=
  if_neg fun unanchored => by rw [h] at unanchored; exact nomatch unanchored.2

theorem nextCandidate_eq (t : Tuning) (m : Int) (o : Option StepCandidate) : nextCandidate t m o =
    { offset := m
      confirmations := match o with
        | none => 1
        | some e => if (m - e.offset).natAbs ≤ t.baseGate then e.confirmations + 1 else 1 } := by
  cases o with
  | none => rfl
  | some e =>
    unfold nextCandidate
    dsimp only
    split <;> rfl

/-- The clock state, acquisition count and lock-off count that an accepted report or a step makes of those of a clock half (R22, R23), for the acquisition count n. -/
noncomputable def settledTo (t : Tuning) (lock : Bool) (n : Nat) (c : ClockHalf) : ClockState × Nat × Nat :=
  match c.state with
  | .acquiring => if t.acquisition ≤ n then (if lock then .locked else .tracking, 0, 0)
      else (.acquiring, n, c.lockOff)
  | .locked => if lock then (.locked, c.acquisition, 0)
      else if t.lockOffFilter ≤ c.lockOff + 1 then (.tracking, c.acquisition, 0)
      else (.locked, c.acquisition, c.lockOff + 1)
  | _ => (if lock then .locked else .tracking, c.acquisition, 0)

/-- A clock half with what `settledTo` gives. -/
noncomputable def settledWith (x : ClockState × Nat × Nat) (c : ClockHalf) : ClockHalf :=
  { c with state := x.1, acquisition := x.2.1, lockOff := x.2.2 }

theorem settledWith_ite {p : Prop} [Decidable p] {x y : ClockState × Nat × Nat} {c d e : ClockHalf}
    (hx : d = settledWith x c) (hy : e = settledWith y c) :
    (if p then d else e) = settledWith (if p then x else y) c := by
  split <;> assumption

theorem settledTo_unlocked (c : ClockHalf) (t : Tuning) (n : Nat) :
    settledTo t false n { c with state := .locked } =
      if t.lockOffFilter ≤ c.lockOff + 1 then (.tracking, c.acquisition, 0)
      else (.locked, c.acquisition, c.lockOff + 1) :=
  rfl

theorem settle_of_state {st : ClockState} (c : ClockHalf) (t : Tuning) (lock : Bool) (n : Nat)
    (v : st ≠ .vacant) (q : st ≠ .quarantined) :
    ({ c with state := st } : ClockHalf).settle t lock n =
      settledWith (settledTo t lock n { c with state := st }) { c with state := st } := by
  cases st with
  | vacant => exact absurd rfl v
  | quarantined => exact absurd rfl q
  | acquiring => exact (if_pos rfl).trans (settledWith_ite rfl rfl)
  | locked =>
    cases lock with
    | true => rfl
    | false =>
      rw [settledTo_unlocked]
      exact settledWith_ite (p := t.lockOffFilter ≤ c.lockOff + 1) rfl rfl
  | tracking => cases lock <;> rfl
  | unreliable => cases lock <;> rfl

theorem settle_eq {c : ClockHalf} (t : Tuning) (lock : Bool) (n : Nat) (v : c.state ≠ .vacant)
    (q : c.state ≠ .quarantined) : c.settle t lock n = settledWith (settledTo t lock n c) c :=
  settle_of_state c t lock n v q

theorem noticeIfLost_of_eligible {new : ClockState} (k : Slot) (old : ClockState) (s : State)
    (h : new.canBeEligible = true) : noticeIfLost k old new s = s := by
  rw [noticeIfLost, h, Bool.not_true, Bool.and_false]
  rfl

/-- An accepted report and a step end no eligibility (R15). -/
theorem noticeIfLost_settledTo (t : Tuning) (lock : Bool) (n : Nat) (c : ClockHalf) (k : Slot)
    (s : State) : noticeIfLost k c.state (settledTo t lock n c).1 s = s := by
  by_cases acquiring : c.state = .acquiring
  · exact noticeIfLost_of_not_eligible k _ s (by rw [acquiring]; rfl)
  · refine noticeIfLost_of_eligible k _ s ?_
    unfold settledTo
    split
    · contradiction
    · split
      · rfl
      · split <;> rfl
    · cases lock <;> rfl

/-- What a report that steps nothing and faults nothing sets off (R16). -/
theorem applyReport_of_kept {p : PortId} {k : Slot} {res : ReportResult} {s : State}
    (code : res.code ≠ .stepTaken) (faulted : res.faulted = false)
    (notice : ∀ u, noticeIfLost k (station k s).clk.state res.clk.state u = u)
    (gen : res.clk.generation = (station k s).clk.generation) :
    applyReport p k res s =
      if res.clk.state ≠ (station k s).clk.state
      then raiseWithSup p .stationState (updClk k (fun _ => res.clk) s)
      else updClk k (fun _ => res.clk) s := by
  unfold applyReport
  simp only [notice, faulted, if_neg code, if_neg (not_not.mpr gen), Bool.false_eq_true, if_false]

/-- What a step sets off (R16, R25, R29). -/
theorem applyReport_of_step {p : PortId} {k : Slot} {res : ReportResult} {s : State}
    (code : res.code = .stepTaken) (faulted : res.faulted = false)
    (notice : ∀ u, noticeIfLost k (station k s).clk.state res.clk.state u = u)
    (gen : res.clk.generation ≠ (station k s).clk.generation) :
    applyReport p k res s = retimeNotice k
      (if res.clk.state ≠ (station k s).clk.state
      then raiseWithSup p .stationState (raiseWithSup p .stepTaken (updClk k (fun _ => res.clk) s))
      else raiseWithSup p .stepTaken (updClk k (fun _ => res.clk) s)) := by
  unfold applyReport
  simp only [notice, faulted, if_pos code, if_pos gen, Bool.false_eq_true, if_false]

/-- What a fault action sets off (R15, R16, R26). -/
theorem applyReport_of_fault {p : PortId} {k : Slot} {res : ReportResult} {s : State}
    (code : res.code ≠ .stepTaken) (faulted : res.faulted = true)
    (gen : res.clk.generation = (station k s).clk.generation) :
    applyReport p k res s = noticeIfLost k (station k s).clk.state res.clk.state
      (if res.clk.state ≠ (station k s).clk.state
      then raiseWithSup p .stationState (raiseWithSup p .stationFault (updClk k (fun _ => res.clk) s))
      else raiseWithSup p .stationFault (updClk k (fun _ => res.clk) s)) := by
  unfold applyReport
  simp only [faulted, if_neg code, if_neg (not_not.mpr gen), if_true]

theorem noticeIfLost_same (k : Slot) (c : ClockState) (s : State) : noticeIfLost k c c s = s := by
  rw [noticeIfLost, Bool.and_not_self]
  rfl

theorem fresh_of_anchor {o : Option Nat} {a n : Nat} (h : o = some a) (lt : a < n) :
    ∀ b ∈ o, b < n := fun _ hb => Option.some.inj (h.symm.trans hb) ▸ lt

section Gate

variable {t : Tuning} {n ts tn a : Nat} {lock : Bool} {c : ClockHalf} {m res : Int}

/-- The prediction of an anchored model (R20), written out. -/
noncomputable def predictedBy (c : ClockHalf) (ts a : Nat) : Nat :=
  min (ts + c.offset + (((ts : Int) - a) * c.drift).tdiv 1000000000).toNat (2 ^ 56 - 1)

/-- The model as an accepted report moves it from the anchor a (R21). -/
noncomputable def acceptedFrom (a : Nat) (t : Tuning) (n ts : Nat) (m r : Int) (c : ClockHalf) :
    ClockHalf :=
  { c with drift := c.driftAfter t r (ts - a), anchor := some ts, offset := m,
           uncertainty := min (r.natAbs + t.uncertaintyFloor) Config.uncertaintyMax,
           faults := 0, candidate := none, lastAccepted := some n, lastAged := n }

theorem accepted_of_anchor (h : c.anchor = some a) :
    c.accepted t n ts m res = acceptedFrom a t n ts m res c := by
  rw [ClockHalf.accepted, h]
  rfl

theorem judgeReport_of_missed (h : c.anchor = some a)
    (gate : t.baseGate + c.uncertainty < ((tn : Int) - predictedBy c ts a).natAbs) :
    judgeReport t n ts tn lock c =
      rejectReport t n ts (tn - ts) lock (tn - predictedBy c ts a) c := by
  rw [judgeReport_of_anchor h, convert_of_anchor h]
  exact if_neg (Nat.not_le.mpr gate)

theorem judgeReport_of_gate (h : c.anchor = some a) (v : c.state ≠ .vacant)
    (q : c.state ≠ .quarantined)
    (gate : ((tn : Int) - predictedBy c ts a).natAbs ≤ t.baseGate + c.uncertainty) :
    judgeReport t n ts tn lock c =
      { clk := settledWith (settledTo t lock (c.acquisition + 1) c)
          (acceptedFrom a t n ts (tn - ts) (tn - predictedBy c ts a) c),
        code := .accepted, residual := some (tn - predictedBy c ts a), faulted := false } := by
  rw [judgeReport_of_anchor h, convert_of_anchor h, accepted_of_anchor h]
  exact (if_pos gate).trans (congrArg (fun e => ReportResult.mk e .accepted
    (some (tn - predictedBy c ts a)) false)
    (settle_eq (c := acceptedFrom a t n ts _ _ c) t lock _ v q))

variable {confirmed : Nat}

/-- The confirmations of a step candidate (R24), written out. -/
noncomputable def confirmedBy (t : Tuning) (m : Int) (o : Option StepCandidate) : Nat :=
  match o with
  | none => 1
  | some e => if (m - e.offset).natAbs ≤ t.baseGate then e.confirmations + 1 else 1

theorem rejectReport_stepped (v : c.state ≠ .vacant) (q : c.state ≠ .quarantined)
    (confirm : t.stepConfirm ≤ confirmedBy t m c.candidate) :
    rejectReport t n ts m lock res c =
      { clk := settledWith (settledTo t lock 1 (c.stepped t n ts m)) (c.stepped t n ts m),
        code := .stepTaken, residual := some res, faulted := false } := by
  rw [rejectReport, nextCandidate_eq]
  exact (if_pos confirm).trans (congrArg (fun e => ReportResult.mk e .stepTaken (some res) false)
    (settle_eq (c := c.stepped t n ts m) t lock 1 v q))

theorem rejectReport_unconfirmed (few : confirmedBy t m c.candidate < t.stepConfirm) :
    rejectReport t n ts m lock res c =
      if t.faultThreshold ≤ c.faults + 1 then
        { clk := ({ c with
            candidate := some { offset := m, confirmations := confirmedBy t m c.candidate }
            faults := c.faults + 1 } : ClockHalf).faultAction n,
          code := .rejected, residual := some res, faulted := true }
      else
        { clk := { c with
            candidate := some { offset := m, confirmations := confirmedBy t m c.candidate }
            faults := c.faults + 1 },
          code := .rejected, residual := some res, faulted := false } := by
  rw [rejectReport, nextCandidate_eq]
  exact if_neg (Nat.not_le.mpr few)

theorem rejectReport_counted (unconfirmed : confirmedBy t m c.candidate < t.stepConfirm)
    (few : c.faults + 1 < t.faultThreshold) : rejectReport t n ts m lock res c =
      { clk := { c with
          candidate := some { offset := m, confirmations := confirmedBy t m c.candidate }
          faults := c.faults + 1 },
        code := .rejected, residual := some res, faulted := false } :=
  (rejectReport_unconfirmed unconfirmed).trans (if_neg (Nat.not_le.mpr few))

/-- The clock half as its fault action leaves it (R26 to R28), the confirmations given. -/
noncomputable def faultedClk (n : Nat) (m : Int) (confirmed : Nat) (c : ClockHalf) : ClockHalf :=
  match c.action with
  | .notify => { c with candidate := some { offset := m, confirmations := confirmed }, faults := 0 }
  | .reacquire => { c with
      anchor := none, offset := 0, drift := 0, uncertainty := 0, acquisition := 0,
      lockOff := 0, faults := 0, candidate := none, lastAccepted := none,
      state := .acquiring, lastAged := n }
  | .quarantine => { c with
      state := .quarantined, candidate := none, acquisition := 0, lockOff := 0, faults := 0 }

theorem rejectReport_faulted (unconfirmed : confirmedBy t m c.candidate < t.stepConfirm)
    (many : t.faultThreshold ≤ c.faults + 1) : rejectReport t n ts m lock res c =
      { clk := faultedClk n m (confirmedBy t m c.candidate) c,
        code := .rejected, residual := some res, faulted := true } := by
  refine (rejectReport_unconfirmed unconfirmed).trans ((if_pos many).trans
    (congrArg (fun e => ReportResult.mk e .rejected (some res) true) ?_))
  unfold ClockHalf.faultAction faultedClk
  cases c.action <;> rfl

end Gate

section Faulted

variable (n : Nat) (m : Int) (confirmed : Nat) (c : ClockHalf)

theorem faultedClk_generation : (faultedClk n m confirmed c).generation = c.generation := by
  unfold faultedClk
  cases c.action <;> rfl

theorem faultedClk_faults : (faultedClk n m confirmed c).faults = 0 := by
  unfold faultedClk
  cases c.action <;> rfl

theorem faultedClk_confirmations :
    ((faultedClk n m confirmed c).candidate.map (·.confirmations)).getD 0 =
      if c.action = .notify then confirmed else 0 := by
  unfold faultedClk
  cases c.action <;> rfl

theorem faultedClk_canBeEligible : (faultedClk n m confirmed c).state.canBeEligible =
    if c.action = .notify then c.state.canBeEligible else false := by
  unfold faultedClk
  cases c.action <;> rfl

/-- A fault action other than NOTIFY ends an eligibility (R15). -/
theorem faultedClk_loses : (c.state.canBeEligible &&
      !(faultedClk n m confirmed c).state.canBeEligible) = true ↔
    c.action ≠ .notify ∧ (c.state = .locked ∨ c.state = .tracking) := by
  rw [← canBeEligible_iff, faultedClk_canBeEligible]
  by_cases notify : c.action = .notify
  · rw [if_pos notify, Bool.and_not_self]
    exact ⟨nofun, fun h => absurd notify h.1⟩
  · rw [if_neg notify, Bool.not_false, Bool.and_true]
    exact (and_iff_right notify).symm

theorem faultedData_eq (slot : Byte) (res : Int) :
    reportData slot (faultedClk n m confirmed c) (some res) ++ [.bit true] =
      [.num 1 slot.toNat, .num 1 (faultedClk n m confirmed c).state.num,
        .num 2 c.generation.toNat, .optInt 4 (some (heldResidual res)), .num 1 0,
        .num 1 (if c.action = .notify then confirmed else 0), .bit true] := by
  rw [reportData, faultedClk_generation, faultedClk_faults, faultedClk_confirmations]
  rfl

theorem with_notices_congr {s : State} {l l' : List Notice} (h : l = l') :
    ({ s with notices := l } : State) = { s with notices := l' } :=
  h ▸ rfl

theorem applyReport_of_faulted {s : State} {p : PortId} {k : Slot} (o : Option Int) :
    applyReport p k { clk := faultedClk n m confirmed (station k s).clk, code := .rejected,
                      residual := o, faulted := true } s =
      { (if (faultedClk n m confirmed (station k s).clk).state ≠ (station k s).clk.state
        then raiseWithSup p .stationState (raiseWithSup p .stationFault
          (updClk k (fun _ => faultedClk n m confirmed (station k s).clk) s))
        else raiseWithSup p .stationFault
          (updClk k (fun _ => faultedClk n m confirmed (station k s).clk) s)) with
        notices := if (station k s).clk.action ≠ .notify ∧
            ((station k s).clk.state = .locked ∨ (station k s).clk.state = .tracking)
          then s.notices ++ [{ slot := k, status := .absentState }] else s.notices } := by
  refine (applyReport_of_fault (show Code.rejected ≠ .stepTaken from nofun) rfl
    (faultedClk_generation n m confirmed _)).trans
    ((noticeIfLost_eq _ _ _ _).trans ?_)
  have kept : (if (faultedClk n m confirmed (station k s).clk).state ≠ (station k s).clk.state
      then raiseWithSup p .stationState (raiseWithSup p .stationFault
        (updClk k (fun _ => faultedClk n m confirmed (station k s).clk) s))
      else raiseWithSup p .stationFault
        (updClk k (fun _ => faultedClk n m confirmed (station k s).clk) s)).notices = s.notices := by
    split <;> rfl
  rw [kept]
  exact with_notices_congr
    (if_congr (faultedClk_loses n m confirmed _) rfl rfl)

end Faulted

end Sys2Proof.Machine

namespace Sys2Proof.Reports

open Sys2Proof.Machine Sys2Proof.Safety

/-- Settles O19, refusal by refusal in the order of R18; a report that passes is judged, and its effect only raises causes on the ports. -/
theorem reportRefusalsComeInOrder : Obligations.ReportRefusalsComeInOrder := by
  intro s p tag r rest w g m
  refine ⟨fun noSlot => exec_submitReportGrant_of_owner w ?_, fun k hk => ?_⟩
  · exact submitReportOwner_of_no_slot p g noSlot
  · intro c no
    have refused {code : Code} (h : reportRefusal r.ts.toNat r.tn.toNat c = some code) :
        exec .submitReportGrant s = no code :=
      exec_submitReportGrant_of_owner w (submitReportOwner_of_refused (s := g) hk h)
    refine ⟨fun h => refused (reportRefusal_of_vacant h),
      fun h => refused (reportRefusal_of_quarantined h),
      fun v q => ⟨fun a ha le => refused (reportRefusal_of_stale v q ha le),
      fun fresh => ⟨fun out => refused ((reportRefusal_of_fresh v q fresh).trans (if_pos out)),
        fun lo hi => ?_⟩⟩⟩
    obtain ⟨res, judged⟩ : ∃ res, judgeReport (tuning s) (now s) r.ts.toNat r.tn.toNat (r.lock != 0)
      (station k s).clk = res := ⟨_, rfl⟩
    have run := exec_submitReportGrant_of_judged w hk (reportRefusal_of_in_range v q fresh lo hi)
      judged
    refine ⟨_, res.code, reportData r.slot res.clk res.residual ++ rejectedMark res, run, ?_, fun unanchored => ?_, fun gated => ?_⟩
    · refine (outSame_tryQuiesceGrant _ p).trans ((out_granted ..).trans ?_)
      rw [outSame_applyReport, outSame_grantsHead]
    · rw [← judged, judgeReport_of_unanchored _ _ _ _ _ unanchored.1 unanchored.2]
    · exact judged ▸ judgeReport_code gated

/-- Settles O21: the gate is met, and the model and the clock state follow the report. -/
theorem anAcceptedReportMovesTheModel : Obligations.AnAcceptedReportMovesTheModel := by
  intro s p tag r rest k a w hk c t m g v q anchor after_anchor lo hi predicted res gate lock drift
    after c1
  have judged : judgeReport t (now s) r.ts.toNat r.tn.toNat lock c =
      { clk := c1, code := .accepted, residual := some res, faulted := false } :=
    judgeReport_of_gate anchor v q gate
  exact (exec_submitReportGrant_of_judged w hk (reportRefusal_of_in_range v q
      (fresh_of_anchor anchor after_anchor) lo hi) judged).trans
    (congrArg (fun u => Host.Outcome.next (tryQuiesceGrant (granted p tag 2 .accepted _ u)))
      (applyReport_of_kept (p := p) (s := g)
        (res := { clk := c1, code := .accepted, residual := some res, faulted := false }) nofun rfl
        (noticeIfLost_settledTo t lock (c.acquisition + 1) c k) rfl))

/-- Settles O22: the gate is missed; the model steps, a fault is counted, or the fault action is taken. -/
theorem aRejectedReportStepsOrFaults : Obligations.ARejectedReportStepsOrFaults := by
  intro s p tag r rest k a w hk c t m g v q anchor after_anchor lo hi predicted res gate lock held
    confirmed change
  have run {e : ReportResult} (h : rejectReport t (now s) r.ts.toNat m lock res c = e) :=
    exec_submitReportGrant_of_judged w hk (reportRefusal_of_in_range v q
      (fresh_of_anchor anchor after_anchor) lo hi) ((judgeReport_of_missed anchor gate).trans h)
  refine ⟨fun confirm => ?_, fun unconfirmed few => ?_, fun unconfirmed many => ?_⟩
  · exact (run (rejectReport_stepped v q confirm)).trans
      (congrArg (fun u => Host.Outcome.next (tryQuiesceGrant (granted p tag 2 .stepTaken _ u)))
        (applyReport_of_step (p := p) (s := g) (res := ⟨_, .stepTaken, some res, false⟩) rfl rfl
          (noticeIfLost_settledTo t lock 1 c k) (gen_succ_ne c.generation)))
  · exact (run (rejectReport_counted unconfirmed few)).trans
      (congrArg (fun u => Host.Outcome.next (tryQuiesceGrant (granted p tag 2 .rejected _ u)))
        ((applyReport_of_kept (p := p) (s := g) (res := ⟨{ c with
            faults := c.faults + 1, candidate := some ⟨m, confirmed⟩ }, .rejected, some res, false⟩)
          (show Code.rejected ≠ .stepTaken from nofun) rfl
          (noticeIfLost_same k c.state) rfl).trans (if_neg (not_not.mpr rfl))))
  · exact (run (rejectReport_faulted unconfirmed many)).trans
      (congrArg₂ (fun d u => Host.Outcome.next (tryQuiesceGrant (granted p tag 2 .rejected d u)))
        (faultedData_eq (now s) m confirmed c r.slot res)
        (applyReport_of_faulted (s := g) (k := k) (now s) m confirmed (some res)))

end Sys2Proof.Reports
end

section
/-! PROOFS. The supervisor's requests (R142 to R148): what leaves the answer of a direct request as it is once its place is reserved, and the statements on check-ins and on the quiesce. -/

namespace Sys2Proof.Machine

open Sys2Proof.Safety

/-- A direct request of the supervisor from a port that does not hold the role (R155). -/
theorem supervised_refused {x : Xfer} {k : Byte} {s : State} (owner : State → Answer)
    (ht : Takes x s) (r : (rightsOf x.port s).supervise = true) (h : isSup x.port s = false) :
    intakeDirect x k .supervise false (ifSupervisor x.port owner) s =
      answered x (.reply x.tag k .notSupervisor []) s :=
  intakeDirect_of_answer (need := .supervise) ht r
    (ifSupervisor_of_not_isSup (s := reserved x s) owner h)

/-! ## The grant of a quiesce (R147) -/

/-- Nothing that a quiesce waits for: no SUBMIT-class request and no re-time. -/
def NothingWaits (s : State) : Prop :=
  (∀ p : PortId, ∀ q ∈ (port p s).queue, reqClass q.req ≠ .submit) ∧
    s.retime.queue = [] ∧ s.retime.running = none

theorem submitPending_iff (s : State) :
    submitPending s = true ↔ ∃ p : PortId, ∃ q ∈ (port p s).queue, reqClass q.req = .submit := by
  unfold submitPending
  simp only [List.any_eq_true, Vector.mem_toList_iff, Vector.mem_iff_getElem, beq_iff_eq]
  constructor
  · rintro ⟨_, ⟨i, hi, rfl⟩, q, hq, h⟩
    exact ⟨⟨i, hi⟩, q, hq, h⟩
  · rintro ⟨p, q, hq, h⟩
    exact ⟨_, ⟨p.val, p.isLt, rfl⟩, q, hq, h⟩

theorem waits_iff (s : State) : (submitPending s || retimeBusy s) = true ↔ ¬NothingWaits s := by
  have busy : retimeBusy s = true ↔ ¬(s.retime.queue = [] ∧ s.retime.running = none) := by
    unfold retimeBusy
    cases s.retime.queue <;> cases s.retime.running <;> simp
  rw [Bool.or_eq_true, submitPending_iff, busy, NothingWaits, not_and_or (b := _ ∧ _)]
  simp only [not_forall, not_not, exists_prop]

/-- The state in which a quiesce is granted (R147). -/
noncomputable def quiesceGranted (hold : Nat) (s : State) : State :=
  raiseIf (fun q => isSup q s) .quiesceGranted { s with sup := { s.sup with
    quiesce := .quiesced (min (now s + hold * 1000000) (2 ^ 56 - 1)) } }

theorem tryQuiesceGrant_of_quiet {s : State} {hold : Nat} (h : s.sup.quiesce = .quiescing hold)
    (quiet : NothingWaits s) : tryQuiesceGrant s = quiesceGranted hold s := by
  unfold tryQuiesceGrant
  rw [h]
  exact if_neg fun waits => (waits_iff s).mp waits quiet

theorem tryQuiesceGrant_of_waits {s : State} (waits : ¬NothingWaits s) : tryQuiesceGrant s = s := by
  unfold tryQuiesceGrant
  split
  · exact if_pos ((waits_iff s).mpr waits)
  · rfl

theorem tryQuiesceGrant_of_not_quiescing {s : State} (h : ∀ d, s.sup.quiesce ≠ .quiescing d) :
    tryQuiesceGrant s = s := by
  unfold tryQuiesceGrant
  split
  · next hold e => exact absurd e (h hold)
  · rfl

theorem nothingWaits_reserved (x : Xfer) (s : State) :
    NothingWaits (reserved x s) ↔ NothingWaits s := by
  have queue (p : PortId) : (port p (reserved x s)).queue = (port p s).queue := by
    by_cases e : p = x.port
    · rw [e, port_reserved]
      exact endTxn_queue _ _
    · rw [reserved, port_updPort_other _ _ e]
  exact and_congr_left' (forall_congr' fun p => by rw [queue p])

end Sys2Proof.Machine

namespace Sys2Proof.Quiesce

open Sys2Proof.Machine Sys2Proof.Safety

/-- Settles O46, by the states of the quiesce. -/
theorem aQuiesceEndsByDiscardOrExpiry : Obligations.AQuiesceEndsByDiscardOrExpiry := by
  intro s ended
  refine ⟨fun x ht r free => congrArg Host.Outcome.next (supervised_refused _ ht r free),
    fun x h => ⟨fun running => ?_, fun quiesced => ?_⟩, fun d hd => ⟨fun le => ?_, fun lt => ?_⟩,
    fun other => ?_⟩
  · exact congrArg Host.Outcome.next (supervised_of_answer (t := s) h (if_pos running))
  · exact congrArg Host.Outcome.next (supervised_of_answer (t := ended) h (if_neg quiesced))
  · exact congrArg Host.Outcome.next (if_pos (by rw [quiesceHoldDue, hd]; exact decide_eq_true le))
  · refine congrArg Host.Outcome.next (if_neg ?_)
    rw [quiesceHoldDue, hd]
    exact fun due => absurd (of_decide_eq_true due) (Nat.not_le.mpr lt)
  · refine congrArg Host.Outcome.next (if_neg ?_)
    unfold quiesceHoldDue
    cases hq : s.sup.quiesce with
    | quiesced d => rw [hq] at other; cases other
    | running => exact Bool.false_ne_true
    | quiescing d => exact Bool.false_ne_true

/-- Settles O45: a request is granted at once when nothing waits, which the reservation of its place leaves as it is. -/
theorem aQuiesceIsGrantedWhenNothingIsPending :
    Obligations.AQuiesceIsGrantedWhenNothingIsPending := by
  intro s quiet held
  refine ⟨fun x b h => ?_, fun hold hq => ⟨fun q => ?_, fun q => ?_⟩, fun other => ?_, rfl⟩
  · intro hold
    have seconds : holdSeconds b = hold := by
      have zero : b.toNat = 0 ↔ b = 0 := by rw [← BitVec.toNat_inj]; rfl
      exact if_congr zero rfl rfl
    let u : State := { s with sup := { s.sup with quiesce := .quiescing hold } }
    have asked (run : s.sup.quiesce = .running) (t : State)
        (ht : tryQuiesceGrant (reserved x u) = reserved x t) : exec (.quiesceRequest x b) s = .next
        (answered x (.reply x.tag 19 .done [.num 1 t.sup.quiesce.num]) t) := by
      refine congrArg Host.Outcome.next (supervised_of_answer h ((if_pos run).trans ?_))
      rw [seconds, ← reserved_updSup]
      exact congrArg (fun v => Answer.mk v .done [.num 1 v.sup.quiesce.num]) ht
    refine ⟨fun busy => ?_, fun run q => ?_, fun run q => ?_⟩
    · exact congrArg Host.Outcome.next (supervised_of_answer (t := s) h (if_neg busy))
    · refine asked run (quiesceGranted hold s) ((tryQuiesceGrant_of_quiet (s := reserved x u) rfl
        ((nothingWaits_reserved x u).mpr q)).trans ?_)
      exact (reserved_raiseIf x (fun q => isSup q s) .quiesceGranted
        { s with sup := { s.sup with quiesce := held hold } }).symm
    · exact asked run _ (tryQuiesceGrant_of_waits fun w => q ((nothingWaits_reserved x u).mp w))
  · exact congrArg Host.Outcome.next (tryQuiesceGrant_of_quiet hq q)
  · exact congrArg Host.Outcome.next (tryQuiesceGrant_of_waits q)
  · refine congrArg Host.Outcome.next (tryQuiesceGrant_of_not_quiescing fun d e => ?_)
    rcases other with run | ⟨_, done⟩
    · rw [e] at run; cases run
    · rw [e] at done; cases done

end Sys2Proof.Quiesce
end

section
/-! PROOFS. Check-ins (R142 to R145): the challenge generator, an error and the lapse it may cause, and the statement. -/

namespace Sys2Proof.Machine

open Sys2Proof.Safety

/-! ## The challenge (R143) -/

/-- The generator reaches 0 from 0 only: a bit shifted out returns as the highest bit. -/
theorem advanceChallenge_ne_zero {c : BitVec 16} (h : c ≠ 0) : advanceChallenge c ≠ 0 := by
  unfold advanceChallenge
  split
  · intro zero
    have top := congrArg (·.getLsbD 15) zero
    simp at top
  · next even =>
    intro zero
    have half : c.toNat / 2 = 0 := by simpa [Nat.shiftRight_eq_div_pow] using congrArg BitVec.toNat zero
    have low : c.toNat % 2 ≠ 1 := fun odd => even (by simp [BitVec.getLsbD, Nat.testBit_zero, odd])
    exact h (BitVec.eq_of_toNat_eq ((Nat.div_add_mod c.toNat 2).symm.trans
      (by rw [half, Nat.mod_two_ne_one.mp low]; rfl)))

theorem goodResponse_iff (c r : BitVec 16) (n : Nat) : goodResponse c r n = true ↔
    r.toNat = (c.toNat + n % 65536) % 65536 ∨ r.toNat = (c.toNat + (n + 65535) % 65536) % 65536 := by
  have before : (BitVec.ofInt 16 ((n : Int) - 1)).toNat = (n + 65535) % 65536 := by
    cases n with
    | zero => rfl
    | succ m =>
      rw [Nat.cast_succ, Int.add_sub_cancel, BitVec.ofInt_natCast, BitVec.toNat_ofNat,
        Nat.add_assoc m 1 65535]
      exact (Nat.add_mod_right m 65536).symm
  rw [goodResponse, Bool.or_eq_true, beq_iff_eq, beq_iff_eq, ← BitVec.toNat_inj, ← BitVec.toNat_inj,
    BitVec.toNat_add, BitVec.toNat_add, before, BitVec.toNat_ofNat]

/-! ## Check-ins (R142, R144, R145) -/

/-- The state in which a check-in error is counted and a new window starts (R145). -/
noncomputable def checkInErred (h : Holder) (s : State) : State :=
  raiseIf (fun q => q == h.port) .checkinError { s with sup := { s.sup with
    errors := s.sup.errors + 1, role := some (h.newWindow (now s) (windowLength s)) } }

theorem startWindow_countError {s : State} {h : Holder} (hr : s.sup.role = some h) :
    startWindow (countError s) = checkInErred h s := by
  have raised : countError s = raiseIf (fun q => q == h.port) .checkinError
      (updSup (fun v => { v with errors := v.errors + 1 }) s) :=
    raiseSup_of_role (s := updSup (fun v => { v with errors := v.errors + 1 }) s) hr _
  rw [startWindow, raised]
  exact congrArg (fun o => raiseIf (fun q => q == h.port) .checkinError { s with sup := { s.sup with
    errors := s.sup.errors + 1, role := o.map (Holder.newWindow (now s) (windowLength s)) } }) hr

theorem checkInErred_reserved (h : Holder) (x : Xfer) (s : State) :
    checkInErred h (reserved x s) = reserved x (checkInErred h s) :=
  (reserved_raiseIf x (fun q => q == h.port) .checkinError { s with sup := { s.sup with
    errors := s.sup.errors + 1, role := some (h.newWindow (now s) (windowLength s)) } }).symm

theorem lapseIfDue_reserved (x : Xfer) (s : State) :
    lapseIfDue (reserved x s) = reserved x (lapseIfDue s) := by
  have lapsed : lapseRole (reserved x s) = reserved x (lapseRole s) :=
    (reserved_raiseIf x (fun _ => true) .supervisorLapsed (updSup (·.endRole) s)).symm
  unfold lapseIfDue
  rw [lapsed]
  exact (apply_ite (reserved x) _ _ _).symm

/-- The state after a check-in error and the lapse it may cause (R145). -/
theorem lapseIfDue_checkInErred (h : Holder) (s : State) : lapseIfDue (checkInErred h s) =
    if s.sup.active.checkinThreshold ≤ s.sup.errors + 1 then
      raiseAll .supervisorLapsed { checkInErred h s with sup := { s.sup with
        errors := s.sup.errors + 1, role := none, stagedTuning := none, quiesce := .running
        staged := if s.sup.quiesce = .running then s.sup.staged else [] } }
    else checkInErred h s :=
  if_congr (decide_eq_true_iff (p := s.sup.active.checkinThreshold ≤ s.sup.errors + 1))
    (congrArg (fun v => raiseAll .supervisorLapsed { checkInErred h s with sup := v })
      (endRole_eq (checkInErred h s).sup)) rfl

/-- A good check-in works off an error, advances the challenge and starts a new window (R143, R144). -/
theorem goodCheckIn_of_role {s : State} {h : Holder} (hr : s.sup.role = some h) : goodCheckIn s =
    { s with sup := { s.sup with
      errors := s.sup.errors - 1
      role := some (Holder.newWindow (now s) (windowLength s)
        { h with challenge := advanceChallenge h.challenge }) } } :=
  congrArg (fun o : Option Holder => { s with sup := { s.sup with
    errors := s.sup.errors - 1
    role := (o.map fun h : Holder => ({ h with challenge := advanceChallenge h.challenge } : Holder)).map
      (Holder.newWindow (now s) (windowLength s)) } }) hr

theorem windowClosed_iff (h : Holder) (s : State) :
    windowClosed h s = true ↔ now s - h.windowStart < h.windowLength / 2 := decide_eq_true_iff

end Sys2Proof.Machine

namespace Sys2Proof.CheckIn

open Sys2Proof.Machine Sys2Proof.Safety

/-- Settles O44: the window is judged first, then the answer; an error is `checkInErred`, and the lapse follows it. -/
theorem checkInsAreJudgedByTheWindow : Obligations.CheckInsAreJudgedByTheWindow := by
  refine ⟨fun c => ⟨rfl, advanceChallenge_ne_zero, goodResponse_iff c⟩, fun s h hr => ?_⟩
  intro w renewed reply erred lapsed after
  have left : lapseIfDue (checkInErred h s) = after := lapseIfDue_checkInErred h s
  refine ⟨fun x a ht r own => ?_, fun past => ?_, fun early => ?_⟩
  · have run {t : State} {c : Code} {d : List Machine.Field} (ho : checkInOwner x.port a (reserved x s) =
        { st := reserved x t, code := c, data := d }) :
        exec (.checkIn x a) s = .next (answered x (.reply x.tag 18 c d) t) :=
      congrArg Host.Outcome.next (intakeDirect_of_answer (need := .supervise) ht r ho)
    have held : (reserved x s).sup.role = some h := hr
    have wrong (c : Code) : checkInError c (reserved x s) =
        { st := reserved x after, code := c, data := reply (s.sup.errors + 1) h.challenge } := by
      rw [checkInError, startWindow_countError held, checkInErred_reserved, lapseIfDue_reserved, left]
      rfl
    have judged : checkInOwner x.port a (reserved x s) =
        if windowClosed h s = true then checkInError .early (reserved x s)
        else if goodResponse h.challenge a s.ring.releaseCount = true then
          { st := goodCheckIn (reserved x s), code := .done
            data := checkInData (goodCheckIn (reserved x s)) }
        else checkInError .wrong (reserved x s) := by
      unfold checkInOwner
      rw [held]
      exact if_neg (not_not.mpr own)
    refine ⟨fun closed => run ?_, fun opened => ⟨fun bad => run ?_, fun good => run ?_⟩⟩
    · rw [judged, if_pos ((windowClosed_iff h s).mpr closed), wrong]
    · rw [judged, if_neg (mt (windowClosed_iff h s).mp (Nat.not_lt.mpr opened)), bad, wrong]
      rfl
    · rw [judged, if_neg (mt (windowClosed_iff h s).mp (Nat.not_lt.mpr opened)), if_pos good,
        goodCheckIn_of_role held]
      rfl
  · refine congrArg Host.Outcome.next ((if_pos ?_).trans ?_)
    · rw [missDue, hr]
      exact decide_eq_true past
    · rw [startWindow_countError hr, left]
  · refine congrArg Host.Outcome.next (if_neg ?_)
    rw [missDue, hr]
    exact fun due => absurd (of_decide_eq_true due) (Nat.not_le.mpr early)

end Sys2Proof.CheckIn
end

section
/-! PROOFS. Tuning (R153, R154): what the taking of a committed set makes of the state, and the statement. -/

namespace Sys2Proof.Machine

open Sys2Proof.Safety

theorem stagingBase_eq (v : Supervision) :
    v.stagingBase = (v.stagedTuning.or v.committed).getD v.active := by
  unfold Supervision.stagingBase
  cases v.stagedTuning with
  | some t => rfl
  | none => cases v.committed <;> rfl

/-- The state with a set made the active one, the sweep trigger and the stall deadlines after it (R43, R137, R154). -/
noncomputable def withTuning (t : Tuning) (s : State) : State :=
  { s with
    sup := { s.sup with active := t, committed := none }
    sweep := if s.sup.active.trigger = t.trigger ∧ s.sup.active.sweepN = t.sweepN then s.sweep
      else { cursor := s.sweep.cursor, pulses := 0
             deadline := if t.trigger = .interval then
               some (min (now s + t.sweepN * 1000000) (2 ^ 56 - 1)) else none }
    groups := imap (fun _ gr => { gr with
      stall := stallDeadline gr { s with sup := { s.sup with active := t } } }) s.groups }

/-- The state with a committed set taken, before the lapse that it may cause (R154). -/
noncomputable def tuningTaken (t : Tuning) (s : State) : State :=
  raiseIf (fun p => isSup p s) .tuningTaken (withTuning t s)

theorem takeTuning_of_committed {s : State} {t : Tuning} (h : s.sup.committed = some t) :
    takeTuning s = lapseIfDue (tuningTaken t s) := by
  unfold takeTuning
  rw [h]
  rfl

theorem takeTuning_of_none {s : State} (h : s.sup.committed = none) : takeTuning s = s := by
  unfold takeTuning
  rw [h]

theorem takeTuning_reserved {s : State} {t : Tuning} (x : Xfer) (h : s.sup.committed = some t) :
    takeTuning (reserved x s) = reserved x (takeTuning s) := by
  rw [takeTuning_of_committed h, takeTuning_of_committed (s := reserved x s) h,
    ← lapseIfDue_reserved]
  exact congrArg lapseIfDue
    (reserved_raiseIf x (fun p => isSup p s) .tuningTaken (withTuning t s)).symm

end Sys2Proof.Machine

namespace Sys2Proof.TuningSets

open Sys2Proof.Machine Sys2Proof.Safety

/-- Settles O48: each request by its owner, the taking by `takeTuning_of_committed` and the threshold of the new set. -/
theorem tuningIsStagedDroppedAndCommitted : Obligations.TuningIsStagedDroppedAndCommitted := by
  refine ⟨fun s x h => ?_, fun s => ⟨takeTuning_of_none, fun t ht => ?_, fun clear => ?_,
    fun sealed => if_pos sealed⟩⟩
  · intro copy
    refine ⟨fun item v => ⟨fun unknown => ?_, fun lo hi range => ⟨fun out => ?_, fun low high => ?_⟩⟩,
      fun unstaged => ⟨?_, ?_⟩, fun t staged => ?_⟩
    · refine congrArg Host.Outcome.next (supervised_of_answer (t := s) h ?_)
      rw [stageTuningOwner, unknown]
      rfl
    · refine congrArg Host.Outcome.next (supervised_of_answer (t := s) h ?_)
      rw [stageTuningOwner, range]
      exact if_pos out
    · refine congrArg Host.Outcome.next (supervised_of_answer h ?_)
      rw [stageTuningOwner, range]
      refine (if_neg fun out => out.elim (Nat.not_lt.mpr low) (Nat.not_lt.mpr high)).trans ?_
      exact congrArg (fun c : Tuning => Answer.mk (reserved x { s with sup := { s.sup with
        stagedTuning := some (c.put item.toNat v.toNat) } }) .done []) (stagingBase_eq s.sup)
    · exact congrArg Host.Outcome.next (supervised_of_answer (t := s) h (if_pos unstaged))
    · refine congrArg Host.Outcome.next (supervised_of_answer (t := s) h ?_)
      rw [commitTuningOwner, show (reserved x s).sup.stagedTuning = none from unstaged]
      rfl
    · intro kept
      have commit : (reserved x s).sup.stagedTuning = some t := staged
      refine ⟨?_, fun active => ?_, fun stopped => ?_⟩
      · have held : ¬s.sup.stagedTuning = none := by rw [staged]; exact nofun
        exact congrArg Host.Outcome.next (supervised_of_answer h (if_neg held))
      · refine congrArg Host.Outcome.next (supervised_of_answer (t := kept) h ?_)
        rw [commitTuningOwner, commit, show (reserved x s).ring.state = .active from active]
        rfl
      · refine congrArg Host.Outcome.next (supervised_of_answer (t := takeTuning kept) h ?_)
        rw [commitTuningOwner, commit, ← takeTuning_reserved x rfl]
        dsimp only
        rw [show (reserved x s).ring.state = .stopped from stopped]
        rfl
  · intro taken
    have left : takeTuning s = lapseIfDue taken := takeTuning_of_committed ht
    refine ⟨fun keeps => left.trans (if_neg fun lapse => ?_),
      fun role lapses => left.trans ((if_pos ?_).trans ?_)⟩
    · obtain ⟨held, reached⟩ := Bool.and_eq_true_iff.mp lapse
      rcases keeps with free | below
      · exact absurd (show s.sup.role.isSome = true from held)
          (by rw [free]; exact Bool.false_ne_true)
      · exact absurd (of_decide_eq_true reached) (Nat.not_le.mpr below)
    · exact Bool.and_eq_true_iff.mpr ⟨role, decide_eq_true lapses⟩
    · exact congrArg (fun v => raiseAll .supervisorLapsed { taken with sup := v })
        (endRole_eq taken.sup)
  · exact if_neg (by rw [clear]; exact Bool.false_ne_true)

end Sys2Proof.TuningSets
end

section
/-! PROOFS. Staged shape items and rights entries (R149, R156): the operands as encoded, the range checks, and the statement. -/

namespace Sys2Proof.Machine

open Sys2Proof.Safety

/-! ## Operands as encoded -/

theorem slotOf_of_val {b : Byte} {k : Slot} (h : k.val = b.toNat) : slotOf b = some k := by
  rw [slotOf, dif_pos (h ▸ k.isLt)]
  exact congrArg some (Fin.ext h.symm)

theorem slotOf_of_above {b : Byte} (h : 64 ≤ b.toNat) : slotOf b = none :=
  dif_neg (Nat.not_lt.mpr h)

theorem zoneOf_of_val {b : Byte} {z : ZoneId} (h : z.val = b.toNat) : zoneOf b = some z := by
  rw [zoneOf, dif_pos (h ▸ z.isLt)]
  exact congrArg some (Fin.ext h.symm)

theorem zoneOf_of_above {b : Byte} (h : 8 ≤ b.toNat) : zoneOf b = none := dif_neg (Nat.not_lt.mpr h)

theorem portOf_of_val {b : Byte} {p : PortId} (h : p.val = b.toNat) : portOf b = some p := by
  rw [portOf, dif_pos (h ▸ p.isLt)]
  exact congrArg some (Fin.ext h.symm)

theorem portOf_of_above {b : Byte} (h : 4 ≤ b.toNat) : portOf b = none := dif_neg (Nat.not_lt.mpr h)

theorem faultActionOf_eq (n : Nat) :
    faultActionOf n = [FaultAction.notify, .reacquire, .quarantine][n]? := by
  rcases n with _ | _ | _ | n <;> rfl

theorem waitModeOf_eq (n : Nat) :
    waitModeOf n = [WaitMode.fixed, .adaptive, .signalled, .noWait][n]? := by
  rcases n with _ | _ | _ | _ | n <;> rfl

theorem faultActionOf_of_above {n : Nat} (h : 3 ≤ n) : faultActionOf n = none := by
  rw [faultActionOf_eq]
  exact List.getElem?_eq_none h

theorem waitModeOf_of_above {n : Nat} (h : 4 ≤ n) : waitModeOf n = none := by
  rw [waitModeOf_eq]
  exact List.getElem?_eq_none h

/-- A code of two values, read as its second one. -/
theorem second_of_two {α : Type} {b : Byte} (h : b.toNat ≤ 1) (x y : α) :
    (if b.toNat = 1 then x else y) = if b = 0 then y else x := by
  have zero : b = 0 ↔ b.toNat = 0 := BitVec.toNat_inj.symm
  rcases Nat.le_one_iff_eq_zero_or_eq_one.mp h with e | e
  · rw [if_neg (by rw [e]; decide), if_pos (zero.mpr e)]
  · rw [if_pos e, if_neg (fun z => by rw [zero.mp z] at e; cases e)]

/-! ## What passes the range checks -/

/-- What holds of a value that passed its checks. -/
def OfPassed {α : Type} (P : α → Prop) : Except Nat α → Prop
  | .ok a => P a
  | .error _ => True

theorem OfPassed.of_eq {α : Type} {P : α → Prop} {e : Except Nat α} {a : α} (h : OfPassed P e)
    (he : e = .ok a) : P a := by rw [he] at h; exact h

theorem OfPassed.ite {α : Type} {P : α → Prop} {c : Prop} [Decidable c] {n : Nat}
    {e : Except Nat α} (h : ¬c → OfPassed P e) : OfPassed P (if c then .error n else e) := by
  split
  · trivial
  · next hc => exact h hc

/-- The checks that ADD_STATION and SET_STATION share, the zone at offset n of the body (R149). -/
noncomputable def stationFields (slot zone depth action : Byte) (n : Nat)
    (item : Slot → ZoneId → FaultAction → ShapeItem) : Except Nat ShapeItem :=
  match slotOf slot with
  | none => .error 1
  | some k =>
    match zoneOf zone with
    | none => .error n
    | some z =>
      if 6 < depth.toNat then .error (n + 1)
      else
        match faultActionOf action.toNat with
        | none => .error (n + 2)
        | some a => .ok (item k z a)

theorem parseShape_addStation (slot zone depth action : Byte) (code : BitVec 16) :
    parseShape (.addStation slot code zone depth action) =
      stationFields slot zone depth action 4 (fun k z a => .addStation k code.toNat z depth.toNat a) := by
  unfold stationFields
  dsimp only [parseShape]
  cases slotOf slot with
  | none => rfl
  | some k => cases zoneOf zone <;> rfl

theorem parseShape_setStation (slot zone depth action : Byte) :
    parseShape (.setStation slot zone depth action) =
      stationFields slot zone depth action 2 (fun k z a => .setStation k z depth.toNat a) := by
  unfold stationFields
  dsimp only [parseShape]
  cases slotOf slot with
  | none => rfl
  | some k => cases zoneOf zone <;> rfl

theorem parseShape_setZone (zone mode budget extension hold : Byte) (cap : BitVec 16) :
    parseShape (.setZone zone mode budget extension cap hold) =
      match zoneOf zone with
      | none => .error 1
      | some z =>
        match waitModeOf mode.toNat with
        | none => .error 2
        | some m => if 3600 < cap.toNat then .error 5 else .ok (.setZone z
            { mode := m, budget := budget.toNat, extension := extension.toNat, cap := cap.toNat,
              hold := hold.toNat }) := by
  dsimp only [parseShape]
  cases zoneOf zone with
  | none => rfl
  | some z => cases waitModeOf mode.toNat <;> rfl

section StationFields

variable {slot zone depth action : Byte} {n : Nat} {item : Slot → ZoneId → FaultAction → ShapeItem}
  {k : Slot} {z : ZoneId}

theorem stationFields_slot (h : 64 ≤ slot.toNat) :
    stationFields slot zone depth action n item = .error 1 := by
  rw [stationFields, slotOf_of_above h]

theorem stationFields_zone (hk : k.val = slot.toNat) (h : 8 ≤ zone.toNat) :
    stationFields slot zone depth action n item = .error n := by
  rw [stationFields, slotOf_of_val hk, zoneOf_of_above h]

theorem stationFields_of_zone (hk : k.val = slot.toNat) (hz : z.val = zone.toNat) :
    stationFields slot zone depth action n item =
      if 6 < depth.toNat then .error (n + 1)
      else
        match faultActionOf action.toNat with
        | none => .error (n + 2)
        | some a => .ok (item k z a) := by
  rw [stationFields, slotOf_of_val hk, zoneOf_of_val hz]

theorem stationFields_depth (hk : k.val = slot.toNat) (hz : z.val = zone.toNat)
    (h : 7 ≤ depth.toNat) : stationFields slot zone depth action n item = .error (n + 1) :=
  (stationFields_of_zone hk hz).trans (if_pos h)

theorem stationFields_action (hk : k.val = slot.toNat) (hz : z.val = zone.toNat)
    (fits : depth.toNat ≤ 6) (h : 3 ≤ action.toNat) :
    stationFields slot zone depth action n item = .error (n + 2) := by
  rw [stationFields_of_zone hk hz, if_neg (Nat.not_lt.mpr fits), faultActionOf_of_above h]

theorem stationFields_passed {a : FaultAction} (hk : k.val = slot.toNat) (hz : z.val = zone.toNat)
    (fits : depth.toNat ≤ 6)
    (h : [FaultAction.notify, .reacquire, .quarantine][action.toNat]? = some a) :
    stationFields slot zone depth action n item = .ok (item k z a) := by
  rw [stationFields_of_zone hk hz, if_neg (Nat.not_lt.mpr fits), faultActionOf_eq, h]

theorem stationFields_holds {P : ShapeItem → Prop}
    (h : depth.toNat ≤ 6 → ∀ k z a, P (item k z a)) :
    OfPassed P (stationFields slot zone depth action n item) := by
  unfold stationFields
  cases slotOf slot with
  | none => trivial
  | some k =>
    cases zoneOf zone with
    | none => trivial
    | some z =>
      refine OfPassed.ite fun fits => ?_
      cases faultActionOf action.toNat with
      | none => trivial
      | some a => exact h (Nat.not_lt.mp fits) k z a

end StationFields

theorem parseShape_inRange (item : RawItem) :
    OfPassed (fun i => ItemInRange i = true) (parseShape item) := by
  cases item with
  | addStation slot code zone depth action =>
    rw [parseShape_addStation]
    exact stationFields_holds fun fits k z a => Bool.and_eq_true_iff.mpr
      ⟨decide_eq_true (Nat.le_of_lt_succ code.isLt), decide_eq_true fits⟩
  | removeStation slot =>
    dsimp only [parseShape]
    cases slotOf slot with
    | none => trivial
    | some k => rfl
  | setStation slot zone depth action =>
    rw [parseShape_setStation]
    exact stationFields_holds fun fits k z a => decide_eq_true fits
  | setZone zone mode budget extension cap hold =>
    rw [parseShape_setZone]
    cases zoneOf zone with
    | none => trivial
    | some z =>
      cases waitModeOf mode.toNat with
      | none => trivial
      | some m => exact OfPassed.ite fun fits => decide_eq_true ⟨Nat.le_of_lt_succ budget.isLt,
          Nat.le_of_lt_succ extension.isLt, Nat.not_lt.mp fits, Nat.le_of_lt_succ hold.isLt⟩
  | unknown t => trivial

theorem parseRights_credit (r : RightsReq) :
    OfPassed (fun e => 1 ≤ e.2.credit ∧ e.2.credit ≤ 8) (parseRights r) := by
  unfold parseRights
  cases portOf r.port with
  | none => trivial
  | some p =>
    refine .ite fun credit => .ite fun _ => .ite fun _ => .ite fun _ => .ite fun _ => ?_
    exact ⟨Nat.not_lt.mp fun low => credit (.inl low), Nat.not_lt.mp fun high => credit (.inr high)⟩

/-! ## The rights of a port, check by check (R156) -/

/-- The checks of the rights and the subscriptions, which follow those of the credit and the policies. -/
noncomputable def rangedRights (q : PortId) (r : RightsReq) : Except Nat (PortId × Rights) :=
  if 7 < r.rights.toNat then .error 1
  else if 15 < r.subscriptions.toNat then .error 2
  else .ok (q,
    { submit := r.rights.getLsbD 0, consume := r.rights.getLsbD 1
      supervise := r.rights.getLsbD 2
      subscriptions := BitVec.ofNat 4 r.subscriptions.toNat
      credit := r.credit.toNat
      framePolicy := if r.framePolicy = 0 then .drop else .halt
      violation := if r.violationPolicy = 0 then .refuse else .absorb })

section Rights

variable {r : RightsReq} {q : PortId}

theorem parseRights_of_port (hq : q.val = r.port.toNat) : parseRights r =
    if r.credit.toNat < 1 ∨ 8 < r.credit.toNat then .error 3
    else if 1 < r.framePolicy.toNat then .error 4
    else if 1 < r.violationPolicy.toNat then .error 5
    else rangedRights q r := by
  rw [parseRights, portOf_of_val hq]
  dsimp only
  refine if_congr Iff.rfl rfl (if_ctx_congr Iff.rfl (fun _ => rfl) fun frame =>
    if_ctx_congr Iff.rfl (fun _ => rfl) fun violation => ?_)
  rw [rangedRights, second_of_two (Nat.not_lt.mp frame), second_of_two (Nat.not_lt.mp violation),
    BitVec.ofNat_toNat]

theorem parseRights_credit_out (hq : q.val = r.port.toNat)
    (out : r.credit = 0 ∨ 8 < r.credit.toNat) : parseRights r = .error 3 :=
  (parseRights_of_port hq).trans (if_pos (out.imp (fun e => e ▸ Nat.one_pos) id))

theorem parseRights_of_credit (hq : q.val = r.port.toNat) (low : 1 ≤ r.credit.toNat)
    (high : r.credit.toNat ≤ 8) : parseRights r =
      if 1 < r.framePolicy.toNat then .error 4
      else if 1 < r.violationPolicy.toNat then .error 5
      else rangedRights q r :=
  (parseRights_of_port hq).trans (if_neg fun out =>
    out.elim (Nat.not_lt.mpr low) (Nat.not_lt.mpr high))

theorem parseRights_of_policies (hq : q.val = r.port.toNat) (low : 1 ≤ r.credit.toNat)
    (high : r.credit.toNat ≤ 8) (frame : r.framePolicy.toNat ≤ 1)
    (violation : r.violationPolicy.toNat ≤ 1) : parseRights r = rangedRights q r :=
  (parseRights_of_credit hq low high).trans
    ((if_neg (Nat.not_lt.mpr frame)).trans (if_neg (Nat.not_lt.mpr violation)))

end Rights

/-! ## The owners of STAGE_SHAPE and SET_RIGHTS -/

section Owners

variable {s : State} {item : RawItem} {i : ShapeItem} {o : Nat}

theorem stageShapeOwner_closed (h : s.sup.quiesce.isQuiesced = false) :
    stageShapeOwner item s = refuse .wrongState s := if_pos (by rw [h]; rfl)

theorem stageShapeOwner_of_quiesced (h : s.sup.quiesce.isQuiesced = true) :
    stageShapeOwner item s = match parseShape item with
      | .error o => refuse .badRequest s [.num 1 o]
      | .ok i =>
        if Config.stagedItems ≤ s.sup.staged.length then refuse .stageFull s
        else
          { st := updSup (fun v => { v with staged := v.staged ++ [i] }) s, code := .done
            data := [.num 1 (s.sup.staged.length + 1)] } :=
  if_neg (by rw [h]; exact Bool.false_ne_true)

theorem stageShapeOwner_of_bad (h : s.sup.quiesce.isQuiesced = true)
    (bad : parseShape item = .error o) :
    stageShapeOwner item s = refuse .badRequest s [.num 1 o] := by
  rw [stageShapeOwner_of_quiesced h, bad]

theorem stageShapeOwner_of_item (h : s.sup.quiesce.isQuiesced = true)
    (ok : parseShape item = .ok i) : stageShapeOwner item s =
      if Config.stagedItems ≤ s.sup.staged.length then refuse .stageFull s
      else
        { st := updSup (fun v => { v with staged := v.staged ++ [i] }) s, code := .done
          data := [.num 1 (s.sup.staged.length + 1)] } := by
  rw [stageShapeOwner_of_quiesced h, ok]

variable {p q : PortId} {r : RightsReq} {e : Rights}

theorem setRightsOwner_of_bad (bad : parseRights r = .error o) :
    setRightsOwner p r s = refuse .badRequest s [.num 1 o] := by
  rw [setRightsOwner, bad]

theorem setRightsOwner_of_rights (ok : parseRights r = .ok (q, e)) : setRightsOwner p r s =
    if q = p then refuse .selfTarget s
    else { st := updSup (fun v => { v with rights := put v.rights q e }) s, code := .done
           data := [] } := by
  rw [setRightsOwner, ok]

end Owners

theorem parseShape_removeStation {slot : Byte} {k : Slot} (h : slotOf slot = some k) :
    parseShape (.removeStation slot) = .ok (.removeStation k) := by rw [parseShape, h]

theorem parseShape_removeStation_above {slot : Byte} (h : slotOf slot = none) :
    parseShape (.removeStation slot) = .error 1 := by rw [parseShape, h]

section ZoneFields

variable {zone mode budget extension hold : Byte} {cap : BitVec 16} {z : ZoneId} {m : WaitMode}

theorem parseShape_setZone_above (h : 8 ≤ zone.toNat) :
    parseShape (.setZone zone mode budget extension cap hold) = .error 1 := by
  rw [parseShape_setZone, zoneOf_of_above h]

theorem parseShape_setZone_mode (hz : z.val = zone.toNat) (h : 4 ≤ mode.toNat) :
    parseShape (.setZone zone mode budget extension cap hold) = .error 2 := by
  rw [parseShape_setZone, zoneOf_of_val hz, waitModeOf_of_above h]

theorem parseShape_setZone_of_mode (hz : z.val = zone.toNat)
    (hm : [WaitMode.fixed, .adaptive, .signalled, .noWait][mode.toNat]? = some m) :
    parseShape (.setZone zone mode budget extension cap hold) =
      if 3600 < cap.toNat then .error 5 else .ok (.setZone z
        { mode := m, budget := budget.toNat, extension := extension.toNat, cap := cap.toNat,
          hold := hold.toNat }) := by
  rw [parseShape_setZone, zoneOf_of_val hz, waitModeOf_eq, hm]

end ZoneFields

end Sys2Proof.Machine

namespace Sys2Proof.Staging

open Sys2Proof.Machine Sys2Proof.Safety

/-- Settles O47: the owners after their refusals, and each check in its order. -/
theorem shapeItemsAndRightsAreCheckedThenKept :
    Obligations.ShapeItemsAndRightsAreCheckedThenKept := by
  refine ⟨fun s x h => ⟨fun item => ⟨fun closed => ?_, fun quiesced => ⟨fun o bad => ?_, fun i ok =>
      ⟨(parseShape_inRange item).of_eq ok, fun full => ?_, fun room => ?_⟩⟩⟩,
    fun r => ⟨fun o bad => ?_, fun q e ok => ⟨((parseRights_credit r).of_eq ok).1,
      ((parseRights_credit r).of_eq ok).2, fun own => ?_, fun other => ?_⟩⟩⟩,
    fun slot zone depth action code => ⟨fun above => ⟨?_, ?_, ?_⟩, fun k hk => ⟨?_, fun above =>
      ⟨?_, ?_⟩, fun z hz => ⟨fun above => ⟨?_, ?_⟩, fun fits => ⟨fun above => ⟨?_, ?_⟩, fun a ha =>
      ⟨?_, ?_⟩⟩⟩⟩⟩,
    fun zone mode budget extension cap hold => ⟨parseShape_setZone_above, fun z hz =>
      ⟨parseShape_setZone_mode hz, fun m hm => ⟨fun above => ?_, fun fits => ?_⟩⟩⟩,
    fun t => rfl, fun r => ⟨fun above => ?_, fun q hq => ⟨parseRights_credit_out hq,
      fun low high => ⟨fun above => ?_, fun frame above => ?_, fun frame violation =>
      ⟨fun above => ?_, fun rights above => ?_, fun rights subs => ?_⟩⟩⟩⟩⟩
  · exact congrArg Host.Outcome.next (supervised_of_answer (t := s) h (stageShapeOwner_closed closed))
  · exact congrArg Host.Outcome.next (supervised_of_answer (t := s) h
      (stageShapeOwner_of_bad (s := reserved x s) quiesced bad))
  · exact congrArg Host.Outcome.next (supervised_of_answer (t := s) h
      ((stageShapeOwner_of_item (s := reserved x s) quiesced ok).trans (if_pos full)))
  · exact congrArg Host.Outcome.next (supervised_of_answer h
      ((stageShapeOwner_of_item (s := reserved x s) quiesced ok).trans
        (if_neg (Nat.not_le.mpr room))))
  · exact congrArg Host.Outcome.next (supervised_of_answer (t := s) h (setRightsOwner_of_bad bad))
  · exact congrArg Host.Outcome.next (supervised_of_answer (t := s) h
      ((setRightsOwner_of_rights ok).trans (if_pos own)))
  · exact congrArg Host.Outcome.next (supervised_of_answer h
      ((setRightsOwner_of_rights (s := reserved x s) ok).trans (if_neg other)))
  · exact (parseShape_addStation ..).trans (stationFields_slot above)
  · exact (parseShape_setStation ..).trans (stationFields_slot above)
  · exact parseShape_removeStation_above (slotOf_of_above above)
  · exact parseShape_removeStation (slotOf_of_val hk)
  · exact (parseShape_addStation ..).trans (stationFields_zone hk above)
  · exact (parseShape_setStation ..).trans (stationFields_zone hk above)
  · exact (parseShape_addStation ..).trans (stationFields_depth hk hz above)
  · exact (parseShape_setStation ..).trans (stationFields_depth hk hz above)
  · exact (parseShape_addStation ..).trans (stationFields_action hk hz fits above)
  · exact (parseShape_setStation ..).trans (stationFields_action hk hz fits above)
  · exact (parseShape_addStation ..).trans (stationFields_passed hk hz fits ha)
  · exact (parseShape_setStation ..).trans (stationFields_passed hk hz fits ha)
  · exact (parseShape_setZone_of_mode hz hm).trans (if_pos above)
  · exact (parseShape_setZone_of_mode hz hm).trans (if_neg (Nat.not_lt.mpr fits))
  · rw [parseRights, portOf_of_above above]
  · exact (parseRights_of_credit hq low high).trans (if_pos above)
  · exact (parseRights_of_credit hq low high).trans
      ((if_neg (Nat.not_lt.mpr frame)).trans (if_pos above))
  · exact (parseRights_of_policies hq low high frame violation).trans (if_pos above)
  · exact (parseRights_of_policies hq low high frame violation).trans
      ((if_neg (Nat.not_lt.mpr rights)).trans (if_pos above))
  · exact (parseRights_of_policies hq low high frame violation).trans
      ((if_neg (Nat.not_lt.mpr rights)).trans (if_neg (Nat.not_lt.mpr subs)))

end Sys2Proof.Staging
end

section
/-! PROOFS. Causes and ports (R170 to R175) and the classification of a block (R62), each by the definition it names. -/

namespace Sys2Proof.Machine

open Sys2Proof.Safety

/-! ## Classification (R62) -/

/-- The distance of R11, written out. -/
theorem seqDistance_eq (seq e : SeqNo) :
    seqDistance seq e = (seq.toNat + 65536 - e.toNat) % 65536 := by
  have le : e.toNat ≤ 65536 := Nat.le_of_lt e.isLt
  rw [seqDistance, BitVec.toNat_sub, Nat.add_comm, ← Nat.add_sub_assoc le]

theorem classify_of_expected {k : Slot} {seq e : SeqNo} {s : State}
    (free : ∀ x ∈ s.pool.used, ¬(x.2.slot = k ∧ x.2.seq = seq))
    (he : (station k s).sq.expected = some e) : classify k seq s =
      if seqDistance seq e = 0 then .inOrder
      else if seqDistance seq e ≤ 64 then .ahead
      else if seqDistance seq e ≤ 32767 then .restart
      else if 65536 - seqDistance seq e ≤ 64 then
        if (station k s).sq.marked (65536 - seqDistance seq e) = true then .duplicateInHistory
        else .lateFill (65536 - seqDistance seq e)
      else .stale := by
  have unused : ¬(s.pool.used.any fun x => decide (x.2.slot = k ∧ x.2.seq = seq)) = true := fun h =>
    let ⟨x, hx, same⟩ := List.any_eq_true.mp h
    free x hx (of_decide_eq_true same)
  rw [classify, if_neg unused, he]

/-! ## Causes (R172 to R175) -/

theorem attention_iff (p : PortState) :
    p.attention = true ↔ ∃ c : Fin 21, p.causes[c].pending = true ∧ p.causes[c].mask = true := by
  unfold PortState.attention
  simp only [List.any_eq_true, Vector.mem_toList_iff, Vector.mem_iff_getElem, Bool.and_eq_true]
  constructor
  · rintro ⟨_, ⟨i, hi, rfl⟩, h⟩
    exact ⟨⟨i, hi⟩, h⟩
  · rintro ⟨c, h⟩
    exact ⟨_, ⟨c.val, c.isLt, rfl⟩, h⟩

theorem causes_reserved (x : Xfer) (s : State) :
    (port x.port (reserved x s)).causes = (port x.port s).causes := by
  rw [port_reserved]
  exact endTxn_causes _ _

theorem unmaskable_iff (c : Fin 21) : unmaskable c = true ↔ c.val ≤ 1 := by
  revert c
  decide

/-- The release of select and a change of the cause records commute (R159, R172). -/
theorem endTxn_withCauses (n : Nat) (p : PortState) (v : Vector CauseRec 21) :
    PortState.endTxn n { p with causes := v } = { p.endTxn n with causes := v } := by
  unfold PortState.endTxn
  dsimp only
  split <;> rfl

/-- A change of the port that the reservation of a place neither reads nor writes. -/
theorem reserved_updPort {x : Xfer} {f : PortState → PortState}
    (h : ∀ p : PortState, { (f p).endTxn x.clocked with reservations := (f p).reservations + 1 } =
      f { p.endTxn x.clocked with reservations := p.reservations + 1 }) (s : State) :
    reserved x (updPort x.port f s) = updPort x.port f (reserved x s) := by
  unfold reserved
  rw [updPort_updPort, updPort_updPort]
  exact congrArg (fun g => updPort x.port g s) (funext h)

theorem reserved_updCause (x : Xfer) (c : Fin 21) (f : CauseRec → CauseRec) (s : State) :
    reserved x (updCause x.port c f s) = updCause x.port c f (reserved x s) :=
  reserved_updPort (fun p => by
    rw [endTxn_withCauses]
    exact congrArg (fun v => { p.endTxn x.clocked with
      reservations := p.reservations + 1, causes := put v c (f v[c]) }) (endTxn_causes _ p).symm) s

theorem endTxn_resumed (n : Nat) (p : PortState) :
    PortState.endTxn n { p with halted := false } = { p.endTxn n with halted := false } := by
  unfold PortState.endTxn
  dsimp only
  split <;> rfl

section Owners

variable {x : Xfer} {p : PortId} {b v : Byte} {c : Fin 21} {s t : State} {code : Code}
  {d : List Machine.Field}

theorem setCauseMaskOwner_of_cause (h : causeOf b = some c) : setCauseMaskOwner p b v s =
      if 1 < v.toNat then refuse .badRequest s [.num 1 1]
      else if v.toNat = 0 ∧ unmaskable c = true then refuse .wrongState s
      else
        { st := updCause p c (fun r => { r with mask := v.toNat == 1 }) s, code := .done
          data := [.bit (port p (updCause p c (fun r => { r with mask := v.toNat == 1 }) s)).attention] } := by
  rw [setCauseMaskOwner, h]

theorem ackCauseOwner_of_cause (h : causeOf b = some c) : ackCauseOwner p b v s =
      if (!(port p s).causes[c].pending) = true then refuse .wrongState s
      else if (port p s).causes[c].count = v then
        { st := updCause p c (fun r => { r with pending := false }) s, code := .done, data := [] }
      else refuse .staleAck s [.num 1 (port p s).causes[c].count.toNat] := by
  rw [ackCauseOwner, h]

theorem setCauseMaskOwner_of_none (h : causeOf b = none) :
    setCauseMaskOwner p b v s = refuse .badRequest s [.num 1 0] := by rw [setCauseMaskOwner, h]

theorem ackCauseOwner_of_none (h : causeOf b = none) :
    ackCauseOwner p b v s = refuse .badRequest s [.num 1 0] := by rw [ackCauseOwner, h]

theorem setCauseMaskOwner_of_fixed (h : causeOf b = some c) (off : v = 0) (fixed : c.val ≤ 1) :
    setCauseMaskOwner p b v s = refuse .wrongState s :=
  (setCauseMaskOwner_of_cause h).trans ((if_neg (off ▸ Nat.not_lt_zero 1)).trans
    (if_pos ⟨BitVec.toNat_inj.mpr off, (unmaskable_iff c).mpr fixed⟩))

/-- The mask of a cause written in its record. -/
noncomputable def withMask (c : Fin 21) (v : Byte) (p : PortState) : PortState :=
  { p with causes := put p.causes c { p.causes[c] with mask := v.toNat == 1 } }

theorem setCauseMaskOwner_of_free (h : causeOf b = some c) (low : v.toNat ≤ 1)
    (free : ¬(v = 0 ∧ c.val ≤ 1)) : setCauseMaskOwner x.port b v (reserved x s) =
      { st := reserved x (updPort x.port (withMask c v) s), code := .done
        data := [.bit (withMask c v (port x.port s)).attention] } := by
  refine ((setCauseMaskOwner_of_cause h).trans ((if_neg (Nat.not_lt.mpr low)).trans (if_neg
    fun h => free ⟨BitVec.toNat_inj.mp h.1, (unmaskable_iff c).mp h.2⟩))).trans ?_
  rw [← reserved_updCause, PortState.attention, causes_reserved]
  exact congrArg (fun q : PortState => Answer.mk (reserved x (updPort x.port (withMask c v) s)) .done
    [.bit q.attention]) (port_updPort_self ..)

theorem ackCauseOwner_of_idle (h : causeOf b = some c) (idle : (port p s).causes[c].pending = false) :
    ackCauseOwner p b v s = refuse .wrongState s :=
  (ackCauseOwner_of_cause h).trans (if_pos (idle.symm ▸ rfl))

theorem ackCauseOwner_of_pending (h : causeOf b = some c)
    (pending : (port p s).causes[c].pending = true) : ackCauseOwner p b v s =
      if (port p s).causes[c].count = v then
        { st := updCause p c (fun r => { r with pending := false }) s, code := .done, data := [] }
      else refuse .staleAck s [.num 1 (port p s).causes[c].count.toNat] :=
  (ackCauseOwner_of_cause h).trans (if_neg (pending.symm ▸ Bool.false_ne_true))

theorem record_reserved (x : Xfer) (c : Fin 21) (s : State) :
    (port x.port (reserved x s)).causes[c] = (port x.port s).causes[c] :=
  congrArg (·[c]) (causes_reserved x s)

theorem exec_setCauseMask_of_owner (ht : Takes x s) (ho : setCauseMaskOwner x.port b v (reserved x s) =
      { st := reserved x t, code := code, data := d }) :
    exec (.setCauseMask x b v) s = .next (answered x (.reply x.tag 30 code d) t) :=
  congrArg Host.Outcome.next (intakeDirect_of_answer (need := .none) ht rfl ho)

theorem exec_ackCause_of_owner (ht : Takes x s) (ho : ackCauseOwner x.port b v (reserved x s) =
      { st := reserved x t, code := code, data := d }) :
    exec (.ackCause x b v) s = .next (answered x (.reply x.tag 29 code d) t) :=
  congrArg Host.Outcome.next (intakeDirect_of_answer (need := .none) ht rfl ho)

theorem exec_ackCause_of_idle (ht : Takes x s) (h : causeOf b = some c)
    (idle : (port x.port s).causes[c].pending = false) :
    exec (.ackCause x b v) s = .next (answered x (.reply x.tag 29 .wrongState []) s) :=
  exec_ackCause_of_owner ht (ackCauseOwner_of_idle h
    ((congrArg CauseRec.pending (record_reserved x c s)).trans idle))

theorem exec_ackCause_of_pending (ht : Takes x s) (h : causeOf b = some c)
    (pending : (port x.port s).causes[c].pending = true) (ho :
      (if (port x.port s).causes[c].count = v then
        { st := reserved x (updCause x.port c (fun r => { r with pending := false }) s)
          code := .done, data := [] }
      else refuse .staleAck (reserved x s) [.num 1 (port x.port s).causes[c].count.toNat] : Answer) =
      { st := reserved x t, code := code, data := d }) :
    exec (.ackCause x b v) s = .next (answered x (.reply x.tag 29 code d) t) := by
  refine exec_ackCause_of_owner ht ((ackCauseOwner_of_pending h
    ((congrArg CauseRec.pending (record_reserved x c s)).trans pending)).trans ?_)
  rw [record_reserved, ← reserved_updCause]
  exact ho

end Owners

/-- A PORT_RESET finds its place at any port (R162, R170). -/
theorem takePlace_reset {x : Xfer} {k : Byte} {go : State → State} {s : State} :
    takePlace x k true true go (endTransaction x.port x.clocked s) = go (reserved x s) := by
  simp [takePlace, endTransaction, reserved]

theorem count_succ_eq (n : BitVec 8) : n + 1 = if n = 255 then 0 else n + 1 := by
  split
  · next h => rw [h]; rfl
  · rfl

theorem isSup_iff (q : PortId) (s : State) :
    isSup q s = true ↔ ∃ h : Holder, s.sup.role = some h ∧ h.port = q := by
  rw [isSup, beq_iff_eq, supPort, Option.map_eq_some_iff]

end Sys2Proof.Machine

namespace Sys2Proof.CausesAndPorts

open Sys2Proof.Machine Sys2Proof.Safety

/-- Settles O23, branch by branch of the classification. -/
theorem classificationFollowsTheDistance : Obligations.ClassificationFollowsTheDistance := by
  refine fun s k seq => ⟨fun ⟨x, hx, same⟩ => ?_, fun free => ⟨fun none_ => ?_, fun e he => ?_⟩⟩
  · exact if_pos (List.any_eq_true.mpr ⟨x, hx, decide_eq_true same⟩)
  · have unused : ¬(s.pool.used.any fun x => decide (x.2.slot = k ∧ x.2.seq = seq)) = true := fun h =>
      let ⟨x, hx, same⟩ := List.any_eq_true.mp h
      free x hx (of_decide_eq_true same)
    rw [classify, if_neg unused, none_]
  · intro d mark
    have run := classify_of_expected free he
    rw [seqDistance_eq] at run
    have behind : 65536 - d - 1 = 65535 - d := Nat.add_sub_add_right 65535 1 d
    have marked : (station k s).sq.marked (65536 - d) = mark := by
      rw [SeqHalf.marked, behind]
    have above {n : Nat} (lo : n + 1 ≤ d) : ¬d ≤ n := Nat.not_le.mpr lo
    have far (lo : 32768 ≤ d) : classify k seq s = if 65536 - d ≤ 64 then
        if (station k s).sq.marked (65536 - d) = true then .duplicateInHistory
        else .lateFill (65536 - d) else .stale :=
      run.trans ((if_neg (Nat.ne_of_gt (Nat.lt_of_lt_of_le (by decide) lo))).trans
        ((if_neg (Nat.not_le.mpr (Nat.lt_of_lt_of_le (by decide) lo))).trans
          (if_neg (Nat.not_le.mpr lo))))
    have near (lo : 65472 ≤ d) : classify k seq s =
        if mark = true then .duplicateInHistory else .lateFill (65536 - d) := by
      rw [far (Nat.le_trans (by decide) lo), marked]
      exact if_pos (Nat.sub_le_iff_le_add.mpr (Nat.add_le_add_left lo 64))
    refine ⟨fun zero => run.trans (if_pos zero), fun lo hi => ?_, fun lo hi => ?_,
      fun lo m => (near lo).trans (if_pos m), fun lo m => (near lo).trans (if_neg ?_),
      fun lo hi => (far lo).trans (if_neg ?_)⟩
    · exact run.trans ((if_neg (Nat.ne_of_gt lo)).trans (if_pos hi))
    · exact run.trans ((if_neg (Nat.ne_of_gt (Nat.lt_of_lt_of_le (by decide) lo))).trans
        ((if_neg (Nat.not_le.mpr lo)).trans (if_pos hi)))
    · rw [m]
      exact Bool.false_ne_true
    · exact Nat.not_le.mpr (Nat.lt_sub_iff_add_lt.mpr (Nat.add_lt_add_left hi 64))

/-- Settles O49: the owners after the reservation of a place, which leaves the cause records. -/
theorem causesAreMaskedAndAcknowledged : Obligations.CausesAreMaskedAndAcknowledged :=
  ⟨fun _ _ ht => ⟨attention_iff _,
    fun _ _ none_ => ⟨exec_setCauseMask_of_owner ht (setCauseMaskOwner_of_none none_),
      exec_ackCause_of_owner ht (ackCauseOwner_of_none none_)⟩,
    fun _ _ _ hc =>
      ⟨fun above => exec_setCauseMask_of_owner ht
        ((setCauseMaskOwner_of_cause hc).trans (if_pos above)),
      fun off fixed => exec_setCauseMask_of_owner ht (setCauseMaskOwner_of_fixed hc off fixed),
      fun low free => exec_setCauseMask_of_owner ht (setCauseMaskOwner_of_free hc low free),
      exec_ackCause_of_idle ht hc, fun pending =>
        ⟨fun count => exec_ackCause_of_pending ht hc pending (if_pos count),
        fun other => exec_ackCause_of_pending ht hc pending (if_neg other)⟩⟩⟩,
  fun p c => congrArg (fun n => { p with
    causes := put p.causes c.order (CauseRec.mk true n p.causes[c.order].mask) }) (count_succ_eq _),
  fun s _ _ q => ⟨rfl, rfl, rfl, rfl, isSup_iff q s⟩, by decide⟩

/-- Settles O50: both are taken by a port that is HALTED, the reset by one that is full as well. -/
theorem portsResumeAndReset : Obligations.PortsResumeAndReset := by
  intro s x cleaned
  have reset : updPort x.port (·.cleaned (.reply x.tag 33 .done [])) (reserved x s) = cleaned := by
    unfold reserved
    rw [updPort_updPort]
    refine updPort_congr ?_
    exact congrArg (fun t => { PortState.initial with
      out := [.reply x.tag 33 .done []], causes := Vector.ofFn fun _ => .clear, txn := t
      sent := ((port x.port s).endTxn x.clocked).sent }) (endTxn_txn x.clocked (port x.port s))
  have run : exec (.portReset x) s = .next (tryQuiesceGrant
      (if isSup x.port s = true then releaseRole cleaned else cleaned)) := by
    rw [← reset]
    exact congrArg Host.Outcome.next takePlace_reset
  refine ⟨fun place => ?_, fun free => ?_, fun held => ?_⟩
  · refine congrArg Host.Outcome.next ((intakeDirect_taken (.inr rfl) place rfl).trans ?_)
    have halted : (port x.port (reserved x s)).halted = (port x.port s).halted := by
      rw [port_reserved]
      exact endTxn_halted _ _
    have resumed := reserved_updPort (x := x) (f := fun p => { p with halted := false })
      (fun p => by rw [endTxn_resumed]) s
    rw [← reply_reserved, resumed, ← halted]
    rfl
  · exact run.trans (congrArg (fun u => Host.Outcome.next (tryQuiesceGrant u))
      (if_neg (by rw [free]; exact Bool.false_ne_true)))
  · refine run.trans (congrArg (fun u => Host.Outcome.next (tryQuiesceGrant u))
      ((if_pos held).trans ?_))
    exact congrArg (fun v => raiseAll .supervisorReleased { cleaned with sup := v })
      (endRole_eq s.sup)

end Sys2Proof.CausesAndPorts
end

section
/-! PROOFS. Delivery groups (R128, R132 to R134): the tests that the five group requests share, and the fetches. -/

namespace Sys2Proof.Machine

open Sys2Proof.Safety

/-! ## What the group requests share (R128) -/

section GroupRequest

variable {q : PortId} {b : Byte} {needs : Bool} {judge : GroupId → State → Answer} {s : State}
  {h : GroupId}

theorem groupRequest_of_no_group (hb : groupOf b = none) :
    groupRequest q b needs judge s = refuse .badRequest s [.num 1 0] := by
  rw [groupRequest, hb]

theorem groupRequest_of_group (hb : groupOf b = some h) : groupRequest q b needs judge s =
    if (rightsOf q s).subscriptions.getLsbD h.val = true then
      if (needs && (group h s).state != .active) = true then groupAnswer h .notAttached [] s
      else judge h s
    else refuse .notSubscribed s := by
  rw [groupRequest, hb]

theorem groupRequest_judged (hb : groupOf b = some h)
    (sub : (rightsOf q s).subscriptions.getLsbD h.val = true)
    (active : needs = true → (group h s).state = .active) :
    groupRequest q b needs judge s = judge h s := by
  rw [groupRequest_of_group hb, if_pos sub, if_neg]
  intro refused
  obtain ⟨n, other⟩ := Bool.and_eq_true_iff.mp refused
  exact bne_iff_ne.mp other (active n)

end GroupRequest

/-- A request that a grant judges as a group request of byte b. -/
def GroupGrant (i : Instr) (req : ServiceReq) (b : Byte) (needs : Bool)
    (judge : GroupId → State → Answer) : Prop :=
  ∀ ⦃s t : State⦄ ⦃p : PortId⦄ ⦃tag : Byte⦄ ⦃rest : List Queued⦄ ⦃c : Code⦄ ⦃d : List Machine.Field⦄,
    Wins p { tag := tag, req := req } rest s →
    groupRequest p b needs judge (grantsHead p none s) = { st := t, code := c, data := d } →
    exec i s = .next (granted p tag (reqKind req) c d t)

theorem groupGrant_attach (b : Byte) : GroupGrant .attachGrant (.attach b) b false judgeAttach :=
  fun _ _ _ _ _ _ _ w ho => congrArg Host.Outcome.next (grantHead_of_owner (a := b) w rfl ho)

theorem groupGrant_detach (b : Byte) : GroupGrant .detachGrant (.detach b) b true judgeDetach :=
  fun _ _ _ _ _ _ _ w ho => congrArg Host.Outcome.next (grantHead_of_owner (a := b) w rfl ho)

theorem groupGrant_fetchEpoch (b : Byte) :
    GroupGrant .fetchEpochGrant (.fetchEpoch b) b true judgeFetchEpoch :=
  fun _ _ _ _ _ _ _ w ho => congrArg Host.Outcome.next (grantHead_of_owner (a := b) w rfl ho)

theorem groupGrant_fetchPage (b : Byte) (n : BitVec 32) (page : BitVec 16) :
    GroupGrant .fetchPageGrant (.fetchPage b n page) b true (judgeFetchPage n.toNat page.toNat) :=
  fun _ _ _ _ _ _ _ w ho => congrArg Host.Outcome.next (grantHead_of_owner (a := (b, n, page)) w rfl ho)

theorem groupGrant_ackEpoch (b : Byte) (n : BitVec 32) :
    GroupGrant .ackEpochGrant (.ackEpoch b n) b true (judgeAck n.toNat) :=
  fun _ _ _ _ _ _ _ w ho => congrArg Host.Outcome.next (grantHead_of_owner (a := (b, n)) w rfl ho)

/-- A request that some rule of a group judges, an ACTIVE group's for all but ATTACH. -/
def JudgedAsGroup (b : Byte) (x : Instr × ServiceReq) : Prop :=
  ∃ (needs : Bool) (judge : GroupId → State → Answer),
    GroupGrant x.1 x.2 b needs judge ∧ (x.1 ≠ .attachGrant → needs = true)

theorem judgedAsGroup_of_mem {b : Byte} {n : BitVec 32} {page : BitVec 16} {x : Instr × ServiceReq}
    (hm : x ∈ [(Instr.attachGrant, ServiceReq.attach b), (.detachGrant, .detach b),
      (.fetchEpochGrant, .fetchEpoch b), (.fetchPageGrant, .fetchPage b n page),
      (.ackEpochGrant, .ackEpoch b n)]) : JudgedAsGroup b x := by
  refine List.forall_mem_cons.mpr ⟨⟨_, _, groupGrant_attach b, fun other => absurd rfl other⟩, ?_⟩ x hm
  refine List.forall_mem_cons.mpr ⟨⟨_, _, groupGrant_detach b, fun _ => rfl⟩, ?_⟩
  refine List.forall_mem_cons.mpr ⟨⟨_, _, groupGrant_fetchEpoch b, fun _ => rfl⟩, ?_⟩
  refine List.forall_mem_cons.mpr ⟨⟨_, _, groupGrant_fetchPage b n page, fun _ => rfl⟩, ?_⟩
  exact List.forall_mem_singleton.mpr ⟨_, _, groupGrant_ackEpoch b n, fun _ => rfl⟩

/-- The answer of the owner's own rule, after the two tests and for the four requests the third (R128). -/
theorem GroupGrant.judged {i : Instr} {req : ServiceReq} {b : Byte} {needs : Bool}
    {judge : GroupId → State → Answer} {s t : State} {p : PortId} {tag : Byte} {rest : List Queued}
    {c : Code} {d : List Machine.Field} {h : GroupId} (g : GroupGrant i req b needs judge)
    (w : Wins p { tag := tag, req := req } rest s) (hb : groupOf b = some h)
    (sub : (rightsOf p s).subscriptions.getLsbD h.val = true)
    (active : needs = true → (group h s).state = .active)
    (ho : judge h (grantsHead p none s) = { st := t, code := c, data := d }) :
    exec i s = .next (granted p tag (reqKind req) c d t) :=
  g w ((groupRequest_judged (s := grantsHead p none s) hb sub active).trans ho)

theorem groupFields_of_active {h : GroupId} {s : State} (active : (group h s).state = .active) :
    groupFields h s = [.num 1 1, .optNum 4 (group h s).cursor, .optNum 7 (group h s).lastAck,
      .optNum 4 (releaseNext s)] := by
  rw [groupFields, active]
  rfl

theorem isReleased_iff (r : Record) : r.isReleased = true ↔ r.state = .released := beq_iff_eq

/-! ## The fetches (R132 to R134) -/

theorem epochSummary_reason (r : Record) : (r.reason.map (·.num)).getD 0 = match r.reason with
    | none => 0
    | some .complete => 1
    | some .timed => 2
    | some .forced => 3 := by
  cases r.reason with
  | none => rfl
  | some c => cases c <;> rfl

section Fetch

variable {h : GroupId} {s : State} {r : Record} {n page : Nat}

theorem judgeFetchEpoch_of_cursor (hc : (group h s).cursor = some n) : judgeFetchEpoch h s =
    match (findRecord n s).filter Record.isReleased with
    | some r => groupAnswer h .done (epochSummary r) s
    | none => groupAnswer h .noneReady [.num 1 (recordStateCode (findRecord n s))] s := by
  unfold judgeFetchEpoch
  rw [hc]
  rfl

theorem judgeFetchEpoch_not_released (hc : (group h s).cursor = some n)
    (no : ∀ r ∈ findRecord n s, r.state ≠ .released) :
    judgeFetchEpoch h s =
      groupAnswer h .noneReady [.num 1 (recordStateCode (findRecord n s))] s := by
  rw [judgeFetchEpoch_of_cursor hc, Option.filter_eq_none_iff.mpr fun r hr released =>
    no r hr ((isReleased_iff r).mp released)]

theorem judgeFetchEpoch_released (hc : (group h s).cursor = some n) (hr : findRecord n s = some r)
    (released : r.state = .released) :
    judgeFetchEpoch h s = groupAnswer h .done (epochSummary r) s := by
  rw [judgeFetchEpoch_of_cursor hc, hr, Option.filter_some_pos ((isReleased_iff r).mpr released)]

theorem judgeFetchPage_wrong
    (no : ∀ r ∈ findRecord n s, r.state ≠ .released ∨ r.awaiting.getLsbD h.val = false) :
    judgeFetchPage n page h s = groupAnswer h .wrongState [] s := by
  rw [judgeFetchPage, Option.filter_eq_none_iff.mpr fun r hr both => ?_]
  obtain ⟨released, awaits⟩ := Bool.and_eq_true_iff.mp both
  rcases no r hr with other | absent
  · exact other ((isReleased_iff r).mp released)
  · exact absurd (absent.symm.trans awaits) Bool.false_ne_true

theorem judgeFetchPage_awaited (hr : findRecord n s = some r) (released : r.state = .released)
    (awaits : r.awaiting.getLsbD h.val = true) :
    judgeFetchPage n page h s = groupAnswer h .done
      ([.num 2 r.blocks.length, .num 1 (pageBlocks page r s).length] ++
        (pageBlocks page r s).flatMap pageEntry) s := by
  have both : (r.isReleased && r.awaits h) = true :=
    Bool.and_eq_true_iff.mpr ⟨(isReleased_iff r).mpr released, awaits⟩
  rw [judgeFetchPage, hr, Option.filter_some, if_pos both]

theorem length_pageBlocks (used : ∀ i ∈ r.blocks, (block i s).isSome = true) :
    (pageBlocks page r s).length = min 3 (r.blocks.length - 3 * page) := by
  rw [pageBlocks, List.filterMap_length_eq_length.mpr fun i hi =>
    used i (List.mem_of_mem_drop (List.mem_of_mem_take hi)), List.length_take, List.length_drop]

end Fetch

end Sys2Proof.Machine

namespace Sys2Proof.DeliveryGroups

open Sys2Proof.Machine Sys2Proof.Safety

/-- Settles O35: the tests of R128 are the same for the five requests, the third for all but ATTACH. -/
theorem groupRequestsAreRefusedInOrder : Obligations.GroupRequestsAreRefusedInOrder := by
  intro s p tag b n page rest i req hm w g no
  obtain ⟨needs, judge, run, four⟩ := judgedAsGroup_of_mem hm
  refine ⟨fun none_ => run w (groupRequest_of_no_group none_), fun h hb => ⟨fun unsub => ?_,
    fun sub other idle => ?_⟩⟩
  · refine run w ((groupRequest_of_group hb).trans (if_neg ?_))
    exact fun sub => Bool.false_ne_true (unsub.symm.trans sub)
  · refine run w ((groupRequest_of_group hb).trans ((if_pos sub).trans (if_pos ?_)))
    exact Bool.and_eq_true_iff.mpr ⟨four other, bne_iff_ne.mpr idle⟩

/-- Settles O38: both fetches answer from the record that they find. -/
theorem fetchesReadReleasedRecords : Obligations.FetchesReadReleasedRecords := by
  intro s p tag b rest h hb sub active g fields summary
  have answer (c : Code) (more : List Machine.Field) :
      groupAnswer h c more g = { st := g, code := c, data := fields ++ more } :=
    congrArg (fun f => Answer.mk g c (f ++ more)) (groupFields_of_active (s := g) active)
  refine ⟨fun w c hc => ?_, fun n page w => ?_⟩
  · have fetched {code : Code} {more : List Machine.Field}
        (ho : judgeFetchEpoch h g = groupAnswer h code more g) :
        exec .fetchEpochGrant s = .next (granted p tag 6 code (fields ++ more) g) :=
      (groupGrant_fetchEpoch b).judged w hb sub (fun _ => active) (ho.trans (answer code more))
    have early (no : ∀ r ∈ findRecord c s, r.state ≠ .released) := fetched
      (judgeFetchEpoch_not_released (s := g) hc no)
    refine ⟨fun none_ => ?_, fun r hr => ⟨fun other => ?_, fun released => ?_⟩⟩
    · exact (early fun x hx => absurd (none_.symm.trans hx) (Option.some_ne_none x).symm).trans
        (congrArg (fun r => Host.Outcome.next (granted p tag 6 .noneReady
          (fields ++ [.num 1 (recordStateCode r)]) g)) none_)
    · exact (early fun x hx => Option.some.inj (hr.symm.trans hx) ▸ other).trans
        (congrArg (fun r => Host.Outcome.next (granted p tag 6 .noneReady
          (fields ++ [.num 1 (recordStateCode r)]) g)) hr)
    · refine fetched ((judgeFetchEpoch_released (s := g) hc hr released).trans ?_)
      refine congrArg (groupAnswer h .done · g) ?_
      unfold epochSummary
      rw [epochSummary_reason]
      rfl
  · have paged {code : Code} {more : List Machine.Field}
        (ho : judgeFetchPage n.toNat page.toNat h g = groupAnswer h code more g) :
        exec .fetchPageGrant s = .next (granted p tag 7 code (fields ++ more) g) :=
      (groupGrant_fetchPage b n page).judged w hb sub (fun _ => active) (ho.trans (answer code more))
    have wrong (no : ∀ r ∈ findRecord n.toNat s,
          r.state ≠ .released ∨ r.awaiting.getLsbD h.val = false) :=
      paged (judgeFetchPage_wrong (s := g) no)
    refine ⟨fun none_ => ?_, fun r hr => ⟨fun other => ?_, fun released awaits used =>
      ⟨length_pageBlocks used, ?_⟩⟩⟩
    · exact wrong fun x hx => absurd (none_.symm.trans hx) (Option.some_ne_none x).symm
    · exact wrong fun x hx => Option.some.inj (hr.symm.trans hx) ▸ other
    · exact paged (judgeFetchPage_awaited (s := g) hr released awaits)

end Sys2Proof.DeliveryGroups
end

section
/-! PROOFS. Membership of a group (R130, R131, R135, R137): what retirement leaves, the stall deadline, the search for a record, and the statements. -/

namespace Sys2Proof.Machine

open Sys2Proof.Safety

/-! ## Retirement (R136) -/

/-- Records leave at the old end, their blocks join the pool, and nothing else changes. -/
def Retired (s t : State) : Prop :=
  t = { s with ring := { s.ring with records := t.ring.records }, pool := t.pool } ∧
    t.ring.records <:+ s.ring.records

namespace Retired

theorem refl (s : State) : Retired s s := ⟨rfl, List.suffix_refl _⟩

theorem trans {s t u : State} (a : Retired s t) (b : Retired t u) : Retired s u :=
  ⟨b.1.trans (a.1 ▸ rfl), b.2.trans a.2⟩

theorem groups {s t : State} (a : Retired s t) : t.groups = s.groups := congrArg (·.groups) a.1

theorem ports {s t : State} (a : Retired s t) : t.ports = s.ports := congrArg (·.ports) a.1

theorem stations {s t : State} (a : Retired s t) : t.stations = s.stations :=
  congrArg (·.stations) a.1

theorem tb {s t : State} (a : Retired s t) : t.tb = s.tb := congrArg (·.tb) a.1

theorem releaseNext {s t : State} (a : Retired s t) : releaseNext t = releaseNext s :=
  (congrArg Machine.releaseNext a.1).trans rfl

end Retired

theorem retired_removeOldest (s : State) : Retired s (removeOldest s) := by
  unfold removeOldest
  split
  · exact .refl s
  · next r rest e => exact ⟨rfl, e ▸ List.suffix_cons r rest⟩

theorem retired_retireChain (n : Nat) (s : State) : Retired s (retireChain n s) := by
  induction n generalizing s with
  | zero => exact .refl s
  | succ n ih =>
    unfold retireChain
    split
    · split
      · exact (retired_removeOldest s).trans (ih _)
      · exact .refl s
    · exact .refl s

theorem retired_retire (s : State) : Retired s (retire s) := retired_retireChain _ s

/-! ## The search for a record -/

theorem findRecord_updRecords {f : Record → Record} (keeps : ∀ r, (f r).epoch = r.epoch) (n : Nat)
    (s : State) : findRecord n (updRecords f s) = (findRecord n s).map f := by
  refine List.find?_map.trans (congrArg (Option.map f) ?_)
  exact congrArg (fun p => s.ring.records.find? p) (funext fun r => by
    rw [Function.comp_apply, keeps])

theorem epoch_of_findRecord {n : Nat} {s : State} {r : Record} (h : findRecord n s = some r) :
    r.epoch = n :=
  of_decide_eq_true (List.find?_some (p := fun r : Record => decide (r.epoch = n)) h)

theorem mem_of_findRecord {n : Nat} {s : State} {r : Record} (h : findRecord n s = some r) :
    r ∈ s.ring.records := List.mem_of_find?_eq_some h

theorem findRecord_of_mem {s : State} {r : Record} (nodup : (s.ring.records.map (·.epoch)).Nodup)
    (h : r ∈ s.ring.records) : findRecord r.epoch s = some r := by
  cases e : findRecord r.epoch s with
  | none => exact absurd (decide_eq_true rfl) (List.find?_eq_none.mp e r h)
  | some x =>
    exact congrArg some (List.inj_on_of_nodup_map nodup (mem_of_findRecord e) h
      (epoch_of_findRecord e))

/-! ## The stall deadline (R137) -/

section StallDeadline

variable {gr : Group} {s : State} {c : Nat}

theorem stallDeadline_of_cursor (active : gr.state = .active) (hc : gr.cursor = some c) :
    stallDeadline gr s = match findRecord c s with
      | none => none
      | some r => if r.state = .released then
          some (min (max (r.releaseTime.getD 0) (gr.lastAck.getD 0) + (tuning s).ackLimit * 1000000)
            (2 ^ 56 - 1))
        else none := by
  rw [stallDeadline, if_pos active, hc]
  change (match findRecord c s with | some r => _ | none => none) = _
  cases findRecord c s with
  | none => rfl
  | some r => exact (if_congr (isReleased_iff r) (congrArg some (holdTime_nat _)) rfl)

theorem stallDeadline_none (h : gr.state ≠ .active ∨ gr.cursor = none) :
    stallDeadline gr s = none := by
  unfold stallDeadline
  split
  · next active => rw [h.resolve_left (absurd active)]; rfl
  · rfl

theorem stallDeadline_not_released (active : gr.state = .active) (hc : gr.cursor = some c)
    (no : ∀ r ∈ findRecord c s, r.state ≠ .released) : stallDeadline gr s = none := by
  rw [stallDeadline_of_cursor active hc]
  cases e : findRecord c s with
  | none => rfl
  | some r => exact if_neg (no r e)

theorem stallDeadline_released {r : Record} (active : gr.state = .active) (hc : gr.cursor = some c)
    (hr : findRecord c s = some r) (released : r.state = .released) : stallDeadline gr s =
      some (min (max (r.releaseTime.getD 0) (gr.lastAck.getD 0) + (tuning s).ackLimit * 1000000)
        (2 ^ 56 - 1)) := by
  rw [stallDeadline_of_cursor active hc, hr]
  exact if_pos released

end StallDeadline

theorem group_refreshStall_self (h : GroupId) (s : State) :
    group h (refreshStall h s) = { group h s with stall := stallDeadline (group h s) s } :=
  (imap_get _ _ _).trans (if_pos (beq_self_eq_true h))

theorem group_refreshStall_other {x h : GroupId} (e : x ≠ h) (s : State) :
    group x (refreshStall h s) = group x s :=
  (imap_get _ _ _).trans (if_neg fun same => e (eq_of_beq same))

/-! ## Awaiting sets -/

theorem dropped_not_awaits (h : GroupId) (m : GroupSet) :
    (m &&& ~~~(1#4 <<< h.val)).getLsbD h.val = false := by
  revert m h
  decide

/-- No record awaits a group that was taken out of every awaiting set. -/
theorem not_awaits_of_dropped {h : GroupId} {l left : List Record}
    (suffix : left <:+ l.map (·.dropGroup h)) : ∀ r ∈ left, r.awaiting.getLsbD h.val = false := by
  intro r hr
  obtain ⟨y, -, rfl⟩ := List.mem_map.mp (suffix.subset hr)
  exact dropped_not_awaits h y.awaiting

/-! ## ATTACH (R130) -/

theorem releasedRecords_eq (s : State) :
    releasedRecords s = s.ring.records.filter fun r => decide (r.state = .released) :=
  List.filter_congr fun r _ => Bool.eq_iff_iff.mpr ((isReleased_iff r).trans decide_eq_true_iff.symm)

theorem judgeAttach_joins {h : GroupId} {s : State} (running : s.ring.state = .active)
    (idle : (group h s).state ≠ .active) : judgeAttach h s =
      groupAnswer h .done [.num 1 (releasedRecords s).length] (attachGroup h s) := by
  rw [judgeAttach, if_neg (running ▸ nofun)]
  split
  · next active => exact absurd active idle
  · rfl
  · rfl

end Sys2Proof.Machine
end

section
/-! PROOFS. Membership of a group (R130, R131, R135, R137): the attachment, the detachment, the acknowledgement and the stall, and the statements. -/

namespace Sys2Proof.Machine

open Sys2Proof.Safety

/-! ## ATTACH (R130) -/

section Attach

variable {h x : GroupId} {s : State}

theorem attached_keeps (r : Record) :
    (if r.isReleased then r.addGroup h else r).epoch = r.epoch ∧
      (if r.isReleased then r.addGroup h else r).state = r.state := by
  split <;> exact ⟨rfl, rfl⟩

theorem judgeAttach_already (running : s.ring.state = .active) (active : (group h s).state = .active) :
    judgeAttach h s = groupAnswer h .already [] s := by
  rw [judgeAttach, if_neg (running ▸ nofun), active]

/-- The group as ATTACH sets it up, before its stall deadline. -/
noncomputable def attachedGroup (s : State) : Group :=
  { state := .active, cursor := attachCursor s, lastAck := some (now s), stall := none }

/-- The state in which a group's stall deadline at its attachment is reckoned. -/
noncomputable def attaching (h : GroupId) (s : State) : State :=
  updGroup h (fun _ => attachedGroup s)
    (updRecords (fun r => if r.isReleased then r.addGroup h else r) s)

theorem group_attachGroup_self : group h (attachGroup h s) =
    { attachedGroup s with stall := stallDeadline (attachedGroup s) (attaching h s) } := by
  have base : group h (attaching h s) = attachedGroup s := group_updGroup_self _ _ _
  exact (group_refreshStall_self h (attaching h s)).trans
    (congrArg (fun g : Group => { g with stall := stallDeadline g (attaching h s) }) base)

theorem group_attachGroup_other (e : x ≠ h) : group x (attachGroup h s) = group x s :=
  (group_refreshStall_other e _).trans (group_updGroup_other _ _ e)

theorem findRecord_attaching (n : Nat) : findRecord n (attaching h s) =
    (findRecord n s).map fun r => if r.isReleased then r.addGroup h else r :=
  findRecord_updRecords (s := s) (fun r => (attached_keeps r).1) n

theorem stall_attach_released {r : Record} (nodup : (s.ring.records.map (·.epoch)).Nodup)
    (hr : r ∈ (releasedRecords s).head?) :
    stallDeadline (attachedGroup s) (attaching h s) =
      some (min (max (r.releaseTime.getD 0) (now s) + (tuning s).ackLimit * 1000000)
        (2 ^ 56 - 1)) := by
  obtain ⟨mem, released⟩ := List.mem_filter.mp (List.mem_of_head? hr)
  have cursor : attachCursor s = some r.epoch := by
    rw [attachCursor, hr]
  refine stallDeadline_released (r := r.addGroup h) rfl cursor ?_ ((isReleased_iff r).mp released)
  exact (findRecord_attaching r.epoch).trans ((congrArg (Option.map _)
    (findRecord_of_mem nodup mem)).trans (congrArg some (if_pos released)))

theorem stall_attach_none (empty : releasedRecords s = []) :
    stallDeadline (attachedGroup s) (attaching h s) = none := by
  cases hc : attachCursor s with
  | none => exact stallDeadline_none (.inr hc)
  | some n =>
    refine stallDeadline_not_released rfl hc fun y hy released => ?_
    obtain ⟨r, hr, rfl⟩ := Option.map_eq_some_iff.mp ((findRecord_attaching n).symm.trans hy)
    have old : r.state = .released := (attached_keeps r).2.symm.trans released
    have mem : r ∈ releasedRecords s :=
      List.mem_filter.mpr ⟨mem_of_findRecord hr, (isReleased_iff r).mpr old⟩
    exact List.not_mem_nil (empty ▸ mem)

end Attach

end Sys2Proof.Machine

namespace Sys2Proof.Membership

open Sys2Proof.Machine Sys2Proof.Safety

/-- Settles O36: the attachment is `attachGroup`, and its stall deadline is reckoned at the cursor that it takes. -/
theorem attachJoinsTheReleasedRecords : Obligations.AttachJoinsTheReleasedRecords := by
  intro s p tag b rest h w hb sub g fields
  have attached {c : Code} {more : List Machine.Field} {u : State}
      (ho : judgeAttach h g = groupAnswer h c more u) :
      exec .attachGrant s = .next (granted p tag 4 c (groupFields h u ++ more) u) :=
    (groupGrant_attach b).judged w hb sub nofun ho
  refine ⟨fun stopped => ?_, fun running active => ?_, fun running idle => ?_⟩
  · exact (attached (more := []) (if_pos stopped)).trans
      (congrArg (fun d => Host.Outcome.next (granted p tag 4 .ringStopped d g)) (List.append_nil _))
  · exact (attached (judgeAttach_already (s := g) running active)).trans
      (congrArg (fun d => Host.Outcome.next (granted p tag 4 .already d g)) (List.append_nil _))
  · intro done cursor
    have joins := judgeAttach_joins (h := h) (s := g) running idle
    have released : releasedRecords g = done := releasedRecords_eq g
    rw [released] at joins
    have same : attachCursor g = cursor := by rw [attachCursor, released]; rfl
    refine ⟨_, attached joins, ?_, ?_, ?_, ?_, ?_, ?_, ?_, ?_, rfl, rfl, rfl⟩
    · exact (out_granted _ _ _ _ _ _).trans
        (congrArg (· ++ _) (outSame_grantsHead p none s p))
    · exact congrArg Group.state (group_attachGroup_self (s := g))
    · exact (congrArg Group.cursor (group_attachGroup_self (s := g))).trans same
    · exact congrArg Group.lastAck (group_attachGroup_self (s := g))
    · exact fun nodup r hr => (congrArg Group.stall (group_attachGroup_self (s := g))).trans
        (stall_attach_released (s := g) nodup (released ▸ hr))
    · exact fun empty => (congrArg Group.stall (group_attachGroup_self (s := g))).trans
        (stall_attach_none (s := g) (released.trans empty))
    · exact fun x e => group_attachGroup_other (s := g) e
    · exact congrArg (fun l => { s.ring with records := l }) (List.map_congr_left fun r _ =>
        if_congr (isReleased_iff r) rfl rfl)

end Sys2Proof.Membership
end

section
/-! PROOFS. A group leaves and moves on (R131, R135, R137): the detachment, the stall and the acknowledgement, each before its retirement, and the statements. -/

namespace Sys2Proof.Machine

open Sys2Proof.Safety

section Leaving

variable {h x : GroupId} {s t : State}

theorem Retired.group (a : Retired s t) (x : GroupId) : group x t = group x s :=
  congrArg (fun v => Machine.group x { s with groups := v }) a.groups

theorem Retired.groupFields (a : Retired s t) : groupFields h t = groupFields h s := by
  rw [Machine.groupFields, a.group, a.releaseNext]
  rfl

theorem stallDue_iff (h : GroupId) (s : State) :
    stallDue h s = true ↔ (group h s).state = .active ∧ ∃ d ∈ (group h s).stall, d ≤ now s := by
  refine Bool.and_eq_true_iff.trans (and_congr beq_iff_eq ?_)
  unfold due
  cases (group h s).stall with
  | none => exact ⟨nofun, fun ⟨_, h, _⟩ => nomatch h⟩
  | some d =>
    exact ⟨fun late => ⟨d, rfl, of_decide_eq_true late⟩,
      fun ⟨_, same, late⟩ => decide_eq_true (Option.some.inj same ▸ late)⟩

/-- The state of a detachment before the retirement (R131). -/
noncomputable def detaching (h : GroupId) (s : State) : State :=
  updGroup h (fun _ => .detached) (updRecords (·.dropGroup h) s)

theorem groupFields_detaching (h : GroupId) (s : State) : groupFields h (detaching h s) =
    [.num 1 0, .optNum 4 none, .optNum 7 none, .optNum 4 (releaseNext s)] :=
  congrArg (fun gr : Machine.Group => [Machine.Field.num 1 gr.state.num, .optNum 4 gr.cursor,
    .optNum 7 gr.lastAck, .optNum 4 (releaseNext s)])
    (group_updGroup_self h (fun _ => .detached) (updRecords (·.dropGroup h) s))

/-- The state of a stall before the retirement (R137). -/
noncomputable def stalling (h : GroupId) (s : State) : State :=
  raiseIf (fun p => (rightsOf p s).subscriptions.getLsbD h.val || isSup p s) .groupStalled
    (updGroup h (fun gr => { gr with state := .stalled, stall := none })
      (updRecords (·.dropGroup h) s))

theorem group_stalling_self : group h (stalling h s) =
    { group h s with state := .stalled, stall := none } :=
  group_updGroup_self h (fun gr => { gr with state := .stalled, stall := none })
    (updRecords (·.dropGroup h) s)

theorem group_stalling_other (e : x ≠ h) : group x (stalling h s) = group x s :=
  group_updGroup_other (fun gr => { gr with state := .stalled, stall := none })
    (updRecords (·.dropGroup h) s) e

/-! ## ACK_EPOCH (R135) -/

/-- The record that an acknowledgement of epoch n leaves. -/
noncomputable def ackedRecord (h : GroupId) (n : Nat) (r : Record) : Record :=
  if r.epoch = n then r.dropGroup h else r

theorem ackedRecord_epoch (n : Nat) (r : Record) : (ackedRecord h n r).epoch = r.epoch := by
  unfold ackedRecord
  split <;> rfl

/-- The group as an acknowledgement moves it on, before its stall deadline. -/
noncomputable def ackedGroup (n : Nat) (s : State) (g : Group) : Group :=
  { g with cursor := some (n + 1), lastAck := some (now s) }

theorem findRecord_above_acked (n : Nat) :
    findRecord (n + 1) (updRecords (ackedRecord h n) s) = findRecord (n + 1) s := by
  rw [findRecord_updRecords (ackedRecord_epoch n)]
  cases e : findRecord (n + 1) s with
  | none => rfl
  | some r =>
    refine congrArg some (if_neg ?_)
    rw [epoch_of_findRecord e]
    exact Nat.succ_ne_self n

theorem group_ackEpoch_self (n : Nat) : group h (ackEpoch h n s) =
    { ackedGroup n s (group h s) with
      stall := stallDeadline (ackedGroup n s (group h s))
        (updGroup h (ackedGroup n s) (updRecords (ackedRecord h n) s)) } :=
  (group_refreshStall_self h _).trans (congrArg (fun g : Group => { g with
    stall := stallDeadline g (updGroup h (ackedGroup n s) (updRecords (ackedRecord h n) s)) })
    (group_updGroup_self h (ackedGroup n s) _))

theorem group_ackEpoch_other (e : x ≠ h) (n : Nat) : group x (ackEpoch h n s) = group x s :=
  (group_refreshStall_other e _).trans (group_updGroup_other _ _ e)

theorem judgeAck_out_of_order {n : Nat} (no : (group h s).cursor ≠ some n) :
    judgeAck n h s = groupAnswer h .outOfOrder [] s := if_pos no

theorem judgeAck_not_released {n : Nat} (hc : (group h s).cursor = some n)
    (no : ∀ r ∈ findRecord n s, r.state ≠ .released) :
    judgeAck n h s = groupAnswer h .noneReady [] s := by
  rw [judgeAck, if_neg (not_not.mpr hc), Option.filter_eq_none_iff.mpr fun r hr released =>
    no r hr ((isReleased_iff r).mp released)]

theorem judgeAck_released {n : Nat} {r : Record} (hc : (group h s).cursor = some n)
    (hr : findRecord n s = some r) (released : r.state = .released) : judgeAck n h s =
      groupAnswer h .done [.num 1 (s.ring.records.length -
        (retire (ackEpoch h n s)).ring.records.length)] (retire (ackEpoch h n s)) := by
  rw [judgeAck, if_neg (not_not.mpr hc), hr, Option.filter_some_pos ((isReleased_iff r).mpr released)]
  exact congrArg (fun l => groupAnswer h .done [.num 1 (l -
    (retire (ackEpoch h n s)).ring.records.length)] (retire (ackEpoch h n s))) (List.length_map _)

end Leaving

end Sys2Proof.Machine

namespace Sys2Proof.Membership

open Sys2Proof.Machine Sys2Proof.Safety

/-- Settles O37: both take the group out of every awaiting set and retire what nothing awaits. -/
theorem detachAndStallLeaveEveryAwaitingSet : Obligations.DetachAndStallLeaveEveryAwaitingSet := by
  refine ⟨fun s p tag b rest h w hb sub active => ?_, fun s h => ⟨fun early => ?_,
    fun d active hd late => ?_⟩⟩
  · have left := retired_retire (detaching h (grantsHead p none s))
    refine ⟨_, (groupGrant_detach b).judged w hb sub (fun _ => active) rfl, ?_, ?_, fun x e => ?_,
      not_awaits_of_dropped (l := s.ring.records) left.2, left.tb⟩
    · exact (out_granted _ _ _ _ _ _).trans (congrArg₂ (fun l d => l ++ [OutFrame.reply tag 5 .done d])
        ((OutSame.of_ports left.ports p).trans (outSame_grantsHead p none s p))
        (congrArg (· ++ [Machine.Field.num 1 (s.ring.records.filter (·.awaits h)).length])
          (left.groupFields.trans (groupFields_detaching h _))))
    · exact (left.group h).trans (group_updGroup_self h _ _)
    · exact (left.group x).trans (group_updGroup_other _ _ e)
  · refine congrArg Host.Outcome.next (if_neg fun due => ?_)
    obtain ⟨active, d, hd, late⟩ := (stallDue_iff h s).mp due
    rcases early with idle | absent | ⟨d', hd', before⟩
    · exact idle active
    · exact nomatch absent.symm.trans hd
    · exact Nat.not_le.mpr before (Option.some.inj (hd.symm.trans hd') ▸ late)
  · have left := retired_retire (stalling h s)
    refine ⟨_, congrArg Host.Outcome.next (if_pos ((stallDue_iff h s).mpr ⟨active, d, hd, late⟩)),
      (left.group h).trans group_stalling_self,
      fun x e => (left.group x).trans (group_stalling_other e),
      not_awaits_of_dropped (l := s.ring.records) left.2, fun q => ?_, left.stations, left.tb⟩
    refine (port_of_ports left.ports q).trans ((port_raiseIf q _ _ _).trans ?_)
    exact if_congr Bool.or_eq_true_iff rfl rfl

/-- Settles O39: the acknowledgement before its retirement, and the deadline of any group. -/
theorem anAckMovesTheCursor : Obligations.AnAckMovesTheCursor := by
  refine ⟨fun s p tag b n rest h w hb sub active => ?_, fun s gr => ⟨stallDeadline_none,
    fun c active hc => ⟨stallDeadline_not_released active hc,
      fun r hr => stallDeadline_released active hc hr⟩⟩⟩
  intro g fields
  have judged {c : Code} {more : List Machine.Field} {u : State}
      (ho : judgeAck n.toNat h g = groupAnswer h c more u) :
      exec .ackEpochGrant s = .next (granted p tag 8 c (groupFields h u ++ more) u) :=
    (groupGrant_ackEpoch b n).judged w hb sub (fun _ => active) ho
  have kept : groupFields h g ++ [] = fields s :=
    (List.append_nil _).trans (groupFields_of_active (s := g) active)
  refine ⟨fun no => ?_, fun hc => ⟨fun early => ?_, fun r hr released => ?_⟩⟩
  · exact (judged (judgeAck_out_of_order (s := g) no)).trans
      (congrArg (fun d => Host.Outcome.next (granted p tag 8 .outOfOrder d g)) kept)
  · refine (judged (judgeAck_not_released (s := g) hc fun x hx => ?_)).trans
      (congrArg (fun d => Host.Outcome.next (granted p tag 8 .noneReady d g)) kept)
    rcases early with none_ | ⟨y, hy, other⟩
    · exact absurd (none_.symm.trans hx) (Option.some_ne_none x).symm
    · exact Option.some.inj (Option.mem_def.mp hy |>.symm.trans hx) ▸ other
  · have left := retired_retire (ackEpoch h n.toNat g)
    have own := (left.group h).trans (group_ackEpoch_self n.toNat)
    have isActive : (group h (retire (ackEpoch h n.toNat g))).state = .active :=
      (congrArg Group.state own).trans active
    have records : (retire (ackEpoch h n.toNat g)).ring.records <:+
        s.ring.records.map (ackedRecord h n.toNat) := left.2
    refine ⟨_, judged (judgeAck_released (s := g) hc hr released), ?_, own.trans ?_,
      fun x e => (left.group x).trans (group_ackEpoch_other e n.toNat),
      fun x hx y hy same nodup => ?_, records, left.stations, left.tb⟩
    · exact (out_granted _ _ _ _ _ _).trans (congrArg₂ (fun l d => l ++ [OutFrame.reply tag 8 .done
        (d ++ [.num 1 (s.ring.records.length - (retire (ackEpoch h n.toNat g)).ring.records.length)])])
        ((OutSame.of_ports left.ports p).trans (outSame_grantsHead p none s p))
        (groupFields_of_active isActive))
    · refine congrArg₂ (fun st d => Machine.Group.mk st (some (n.toNat + 1)) (some (now s)) d) active ?_
      refine (stallDeadline_of_cursor (gr := ackedGroup n.toNat g (group h g)) active rfl).trans ?_
      exact (congrArg (fun o : Option Record => match o with
        | none => none
        | some y => if y.state = RecState.released then
            some (min (max (y.releaseTime.getD 0) (now s) + (tuning s).ackLimit * 1000000)
              (2 ^ 56 - 1))
          else none) (findRecord_above_acked (h := h) (s := s) n.toNat)).trans rfl
    · obtain ⟨z, hz, rfl⟩ := List.mem_map.mp (records.subset hy)
      rw [List.inj_on_of_nodup_map nodup hx hz ((ackedRecord_epoch n.toNat z).symm.trans same).symm]
      rfl

end Sys2Proof.Membership
end

section
/-! PROOFS. What the seal test and the taking of a tuning set leave (R109 to R114, R136, R154), and the events that give WAITING stations up (R96, R105, R107). -/

namespace Sys2Proof.Machine

open Sys2Proof.Safety

/-! ## What a seal leaves of a record -/

/-- The content of a record that a seal, a release and a retirement leave: y is x, sealed or released at most. -/
def SameContent (x y : Record) : Prop :=
  y.epoch = x.epoch ∧ y.entries = x.entries ∧ y.blocks = x.blocks ∧ y.late = x.late ∧
    ∀ (z : ZoneId) (d : Nat), x.zones[z].deadline = .expired d → y.zones[z].deadline = .expired d

namespace SameContent

variable {x y : Record}

theorem refl (x : Record) : SameContent x x := ⟨rfl, rfl, rfl, rfl, fun _ _ h => h⟩

theorem epoch (h : SameContent x y) : y.epoch = x.epoch := h.1
theorem entries (h : SameContent x y) : y.entries = x.entries := h.2.1
theorem blocks (h : SameContent x y) : y.blocks = x.blocks := h.2.2.1
theorem late (h : SameContent x y) : y.late = x.late := h.2.2.2.1

theorem expired (h : SameContent x y) {z : ZoneId} {d : Nat}
    (e : x.zones[z].deadline = .expired d) : y.zones[z].deadline = .expired d := h.2.2.2.2 z d e

theorem trans {w : Record} (a : SameContent x y) (b : SameContent y w) : SameContent x w :=
  ⟨b.epoch.trans a.epoch, b.entries.trans a.entries, b.blocks.trans a.blocks, b.late.trans a.late,
    fun _ _ h => b.expired (a.expired h)⟩

end SameContent

/-- The records of t are records of s in content, and t has its stations, its time and its notices. -/
def AfterSeals (s t : State) : Prop :=
  t.stations = s.stations ∧ t.tb = s.tb ∧ t.notices = s.notices ∧
    ∀ y ∈ t.ring.records, ∃ x ∈ s.ring.records, SameContent x y

namespace AfterSeals

variable {s t u : State}

theorem refl (s : State) : AfterSeals s s := ⟨rfl, rfl, rfl, fun y hy => ⟨y, hy, .refl y⟩⟩

theorem stations (h : AfterSeals s t) : t.stations = s.stations := h.1
theorem tb (h : AfterSeals s t) : t.tb = s.tb := h.2.1
theorem notices (h : AfterSeals s t) : t.notices = s.notices := h.2.2.1

theorem record (h : AfterSeals s t) {y : Record} (hy : y ∈ t.ring.records) :
    ∃ x ∈ s.ring.records, SameContent x y := h.2.2.2 y hy

theorem trans (a : AfterSeals s t) (b : AfterSeals t u) : AfterSeals s u :=
  ⟨b.stations.trans a.stations, b.tb.trans a.tb, b.notices.trans a.notices, fun _ hy =>
    let ⟨w, hw, same⟩ := b.record hy
    let ⟨x, hx, before⟩ := a.record hw
    ⟨x, hx, before.trans same⟩⟩

/-- A change outside the records, the stations, the time and the notices. -/
theorem of_same (stations : t.stations = s.stations) (tb : t.tb = s.tb)
    (notices : t.notices = s.notices) (records : t.ring.records = s.ring.records) : AfterSeals s t :=
  ⟨stations, tb, notices, fun y hy => ⟨y, records ▸ hy, .refl y⟩⟩

end AfterSeals

theorem afterSeals_updRecords {f : Record → Record} (s : State) (h : ∀ r, SameContent r (f r)) :
    AfterSeals s (updRecords f s) :=
  ⟨rfl, rfl, rfl, fun _ hy =>
    let ⟨x, hx, e⟩ := List.mem_map.mp hy
    ⟨x, hx, e ▸ h x⟩⟩

theorem afterSeals_retire (s : State) : AfterSeals s (retire s) :=
  ⟨(retired_retire s).stations, (retired_retire s).tb, congrArg (·.notices) (retired_retire s).1,
    fun y hy => ⟨y, (retired_retire s).2.subset hy, .refl y⟩⟩

theorem afterSeals_markReleased (n : Nat) (s : State) : AfterSeals s (markReleased n s) :=
  .trans (afterSeals_updRecords (f := fun r => if r.epoch = n then { r with
      state := .released, releaseTime := some (now s), awaiting := activeSet s } else r) s
    fun r => by
      split
      · exact ⟨rfl, rfl, rfl, rfl, fun _ _ h => h⟩
      · exact .refl r) (.of_same rfl rfl rfl rfl)

theorem afterSeals_releaseChain (n : Nat) (s : State) : AfterSeals s (releaseChain n s) := by
  induction n generalizing s with
  | zero => exact .refl s
  | succ n ih =>
    unfold releaseChain
    split
    · next r _ =>
      split
      · exact ((afterSeals_markReleased r.epoch s).trans
          (.of_same rfl rfl rfl rfl)).trans (ih _)
      · exact .refl s
    · exact .refl s

/-- What follows a seal (R112, R136). -/
theorem afterSeals_sealed (s : State) :
    AfterSeals s (retire (releaseAll { s with sealMade := true })) := by
  have latched : AfterSeals s { s with sealMade := true } := .of_same rfl rfl rfl rfl
  exact (latched.trans (afterSeals_releaseChain _ _)).trans (afterSeals_retire _)

theorem abandon_of_expired {w : ZoneWait} {d : Nat} (h : w.deadline = .expired d) :
    w.abandon.deadline = .expired d := by
  rw [ZoneWait.abandon, h]
  exact h

theorem sameContent_afterSealTest (s : State) (r : Record) : SameContent r (r.afterSealTest s) := by
  unfold Record.afterSealTest
  split
  · split
    · exact ⟨rfl, rfl, rfl, rfl, fun _ _ h => h⟩
    · refine ⟨rfl, rfl, rfl, rfl, fun z d h => ?_⟩
      exact (congrArg ZoneWait.deadline (imap_get _ _ _)).trans (abandon_of_expired h)
  · exact .refl r

theorem afterSeals_sealTest (sel : Record → Bool) (s : State) : AfterSeals s (sealTest sel s) := by
  have tested : AfterSeals s (updRecords (fun r => if sel r then r.afterSealTest s else r) s) :=
    afterSeals_updRecords s fun r => by
      split
      · exact sameContent_afterSealTest s r
      · exact .refl r
  unfold sealTest
  dsimp only
  split
  · exact tested.trans (afterSeals_sealed _)
  · exact tested

theorem afterSeals_takeTuning (s : State) : AfterSeals s (takeTuning s) := by
  cases h : s.sup.committed with
  | none => rw [takeTuning_of_none h]; exact .refl s
  | some t =>
    have taken : AfterSeals s (tuningTaken t s) :=
      .of_same rfl rfl rfl rfl
    rw [takeTuning_of_committed h, lapseIfDue]
    split
    · exact taken.trans (.of_same rfl rfl rfl rfl)
    · exact taken

theorem afterSeals_finishSeals (s : State) : AfterSeals s (finishSeals s) := by
  unfold finishSeals
  split
  · exact .trans (.of_same rfl rfl rfl rfl) (afterSeals_takeTuning _)
  · exact .refl s

theorem afterSeals_tryQuiesceGrant (s : State) : AfterSeals s (tryQuiesceGrant s) := by
  unfold tryQuiesceGrant
  split
  · split
    · exact .refl s
    · exact .of_same rfl rfl rfl rfl
  · exact .refl s

theorem finishSeals_of_clear {s : State} (h : s.sealMade = false) : finishSeals s = s :=
  if_neg (by rw [h]; exact Bool.false_ne_true)

theorem outSame_takeTuning (s : State) : OutSame s (takeTuning s) := by
  cases h : s.sup.committed with
  | none => rw [takeTuning_of_none h]; exact fun _ => rfl
  | some t =>
    have taken : OutSame s (tuningTaken t s) := OutSame.raiseIf (.of_ports rfl) _ _
    rw [takeTuning_of_committed h, lapseIfDue]
    exact .ite (taken.trans (OutSame.raiseIf (.of_ports rfl) _ _)) taken

theorem outSame_finishSeals (s : State) : OutSame s (finishSeals s) := by
  unfold finishSeals
  exact .ite ((OutSame.of_ports rfl).trans (outSame_takeTuning _)) fun _ => rfl

theorem outSame_sealTest (sel : Record → Bool) (s : State) : OutSame s (sealTest sel s) :=
  (ringEvent_sealTest sel s).out

theorem afterSeals_event (sel : Record → Bool) (s : State) :
    AfterSeals s (finishSeals (sealTest sel s)) :=
  (afterSeals_sealTest sel s).trans (afterSeals_finishSeals _)

/-- The content of a record after an event that changed it by f, and the seals after that. -/
theorem content_of_afterSeals {s t : State} {f : Record → Record} {x y : Record}
    (a : AfterSeals (updRecords f s) t) (keeps : ∀ r, (f r).epoch = r.epoch)
    (nodup : (s.ring.records.map (·.epoch)).Nodup) (hx : x ∈ s.ring.records)
    (hy : y ∈ t.ring.records) (same : y.epoch = x.epoch) : SameContent (f x) y := by
  obtain ⟨w, hw, content⟩ := a.record hy
  obtain ⟨x', hx', rfl⟩ := List.mem_map.mp hw
  have one : x' = x := List.inj_on_of_nodup_map nodup hx' hx
    ((keeps x').symm.trans (content.epoch.symm.trans same))
  exact one ▸ content

end Sys2Proof.Machine
end

section
/-! PROOFS. The events that give WAITING stations up (R96, R105, R107), by the content that the seals after them leave. -/

namespace Sys2Proof.Machine

open Sys2Proof.Safety

theorem entry_of_entries {x y : Record} (h : y.entries = x.entries) (k : Slot) :
    y.entries[k] = x.entries[k] := by rw [h]

theorem entry_zoneGivenUp (z : ZoneId) (x : Status) (s : State) (r : Record) (k : Slot) :
    (zoneGivenUp z x s r).entries[k] =
      if r.entries[k].status = .waiting ∧ (station k s).clk.zone = z then
        { r.entries[k] with status := x } else r.entries[k] := imap_get _ _ _

/-! ## A deadline that expires (R105) -/

/-- A record as the expiry of a zone's deadline leaves it (R105). -/
noncomputable def expiredRecord (z : ZoneId) (d : Nat) (s : State) (r : Record) : Record :=
  { zoneGivenUp z .absentTimeout s r with
    zones := put r.zones z { r.zones[z] with deadline := .expired d } }

/-- The records as the expiry of a zone's deadline in the record of epoch n leaves them (R105). -/
noncomputable def recordAtExpiry (n : Nat) (z : ZoneId) (d : Nat) (s : State) (r : Record) : Record :=
  if r.epoch = n then expiredRecord z d s r else r

section Expiry

variable {n : Nat} {z : ZoneId} {s : State} {r : Record} {d : Nat}

theorem deadlineDue_of_pending (opened : r.state = .opened) (h : r.zones[z].deadline = .pending d) :
    deadlineDue z s r = decide (d ≤ now s) := by
  rw [deadlineDue, Record.isOpen, opened, h]
  rfl

theorem expireZone_of_pending (h : r.zones[z].deadline = .pending d) :
    expireZone z s r = expiredRecord z d s r := by
  rw [expireZone, giveUpZone_eq, ZoneWait.expire, h]
  rfl

theorem updRecord_expireZone (nodup : (s.ring.records.map (·.epoch)).Nodup)
    (hr : r ∈ s.ring.records) (hn : r.epoch = n) (pending : r.zones[z].deadline = .pending d) :
    updRecord n (expireZone z s) s = updRecords (recordAtExpiry n z d s) s :=
  congrArg (fun l => { s with ring := { s.ring with records := l } })
    (List.map_congr_left fun _ hy => if_ctx_congr Iff.rfl (fun own =>
      List.inj_on_of_nodup_map nodup hr hy (hn.trans own.symm) ▸ expireZone_of_pending pending)
      fun _ => rfl)

theorem execZoneDeadlineExpiry_of_record {n : BitVec 32} (hr : findRecord n.toNat s = some r) :
    execZoneDeadlineExpiry n z s =
      if deadlineDue z s r = true then
        .next (finishSeals (sealTest (fun r => decide (r.epoch = n.toNat))
          (updRecord n.toNat (expireZone z s) s)))
      else .next s := by
  rw [execZoneDeadlineExpiry, hr]

/-- The expiry before its deadline and after it. -/
theorem execZoneDeadlineExpiry_of_pending {n : BitVec 32}
    (nodup : (s.ring.records.map (·.epoch)).Nodup) (hr : r ∈ s.ring.records)
    (hn : r.epoch = n.toNat) (opened : r.state = .opened)
    (pending : r.zones[z].deadline = .pending d) : execZoneDeadlineExpiry n z s =
      if d ≤ now s then
        .next (finishSeals (sealTest (fun r => decide (r.epoch = n.toNat))
          (updRecords (recordAtExpiry n.toNat z d s) s)))
      else .next s := by
  rw [execZoneDeadlineExpiry_of_record (hn ▸ findRecord_of_mem nodup hr),
    deadlineDue_of_pending opened pending, updRecord_expireZone nodup hr hn pending]
  exact if_congr decide_eq_true_iff rfl rfl

theorem recordAtExpiry_own (own : r.epoch = n) : recordAtExpiry n z d s r = expiredRecord z d s r :=
  if_pos own

theorem recordAtExpiry_other (other : r.epoch ≠ n) : recordAtExpiry n z d s r = r := if_neg other

theorem recordAtExpiry_keeps (n : Nat) (z : ZoneId) (d : Nat) (s : State) (r : Record) :
    (recordAtExpiry n z d s r).epoch = r.epoch ∧ (recordAtExpiry n z d s r).blocks = r.blocks ∧
      (recordAtExpiry n z d s r).late = r.late := by
  unfold recordAtExpiry expiredRecord zoneGivenUp
  split <;> exact ⟨rfl, rfl, rfl⟩

theorem entry_expiredRecord (k : Slot) : (expiredRecord z d s r).entries[k] =
    if r.entries[k].status = .waiting ∧ (station k s).clk.zone = z then
      { r.entries[k] with status := .absentTimeout } else r.entries[k] := by
  unfold expiredRecord
  dsimp only
  exact entry_zoneGivenUp z _ s r k

theorem deadline_expiredRecord : (expiredRecord z d s r).zones[z].deadline = .expired d := by
  unfold expiredRecord
  exact congrArg ZoneWait.deadline (put_get_self _ _ _)

end Expiry

/-! ## A loss of eligibility (R96) -/

/-- A record as an eligibility-loss notice leaves it (R96). -/
noncomputable def lostRecord (m : Notice) (r : Record) : Record :=
  if r.state = .opened ∧ r.entries[m.slot].status = .waiting then
    { r with entries := put r.entries m.slot { r.entries[m.slot] with status := m.status } }
  else r

theorem markLost_record (m : Notice) (r : Record) :
    (if r.isOpen = true then
      { r with entries := put r.entries m.slot (r.entries[m.slot].giveUp m.status) } else r) =
      lostRecord m r := by
  unfold lostRecord Entry.giveUp
  by_cases w : r.entries[m.slot].status = .waiting
  · rw [if_pos w]
    exact if_congr (beq_iff_eq.trans (and_iff_left w).symm) rfl rfl
  · rw [if_neg w, put_self]
    exact (ite_self r).trans (if_neg fun h => w h.2).symm

theorem lostRecord_keeps (m : Notice) (r : Record) : (lostRecord m r).epoch = r.epoch ∧
    (lostRecord m r).blocks = r.blocks ∧ (lostRecord m r).late = r.late := by
  unfold lostRecord
  split <;> exact ⟨rfl, rfl, rfl⟩

theorem entry_lostRecord (m : Notice) (r : Record) (k : Slot) : (lostRecord m r).entries[k] =
    if r.state = .opened ∧ k = m.slot ∧ r.entries[k].status = .waiting then
      { r.entries[k] with status := m.status } else r.entries[k] := by
  unfold lostRecord
  by_cases e : k = m.slot
  · subst e
    by_cases h : r.state = .opened ∧ r.entries[m.slot].status = .waiting
    · rw [if_pos h, if_pos ⟨h.1, rfl, h.2⟩]
      exact put_get_self _ _ _
    · rw [if_neg h, if_neg fun x => h ⟨x.1, x.2.2⟩]
  · refine Eq.trans ?_ (if_neg fun x => e x.2.1).symm
    split
    · exact put_get_other _ _ e
    · rfl

theorem execEligibilityLossNotice_of_notice {s : State} {m : Notice} {rest : List Notice}
    (h : s.notices = m :: rest) : execEligibilityLossNotice s = .next (finishSeals
      (sealTest (fun y => decide (y ∉ s.ring.records))
        (updRecords (lostRecord m) { s with notices := rest }))) := by
  rw [execEligibilityLossNotice, h]
  exact congrArg (fun f => Host.Outcome.next (finishSeals (sealTest
    (fun y => decide (y ∉ s.ring.records)) (updRecords f { s with notices := rest }))))
    (funext (markLost_record m))

/-! ## The flush of a zone (R107) -/

/-- The records as a flush of a zone up to t leaves them (R107). -/
noncomputable def recordAtFlush (z : ZoneId) (t : Nat) (s : State) (r : Record) : Record :=
  if r.state = .opened ∧ s.ring.epochEnd r.epoch ≤ t then zoneGivenUp z .absentFlushed s r else r

section Flush

variable {z : ZoneId} {s : State} {b : Byte} {t : BitVec 56}

theorem recordAtFlush_keeps (z : ZoneId) (n : Nat) (s : State) (r : Record) :
    (recordAtFlush z n s r).epoch = r.epoch ∧ (recordAtFlush z n s r).blocks = r.blocks ∧
      (recordAtFlush z n s r).late = r.late := by
  unfold recordAtFlush zoneGivenUp
  split <;> exact ⟨rfl, rfl, rfl⟩

theorem entry_recordAtFlush (z : ZoneId) (n : Nat) (s : State) (r : Record) (k : Slot) :
    (recordAtFlush z n s r).entries[k] =
      if (r.state = .opened ∧ s.ring.epochEnd r.epoch ≤ n) ∧
          r.entries[k].status = .waiting ∧ (station k s).clk.zone = z then
        { r.entries[k] with status := .absentFlushed } else r.entries[k] := by
  unfold recordAtFlush
  split
  · next reached =>
    exact (entry_zoneGivenUp z _ s r k).trans (if_congr (and_iff_right reached).symm rfl rfl)
  · next other => exact (if_neg fun both => other both.1).symm

theorem flushReaches_eq (n : Nat) (s : State) (r : Record) : flushReaches n s r =
    decide (r.state = .opened ∧ s.ring.epochEnd r.epoch ≤ n) := (Bool.decide_and _ _).symm

theorem waitsInZone_eq (z : ZoneId) (s : State) (r : Record) (k : Slot) : waitsInZone z s r k =
    decide (r.entries[k].status = .waiting ∧ (station k s).clk.zone = z) := (Bool.decide_and _ _).symm

theorem flushZone_eq (z : ZoneId) (n : Nat) (s : State) : flushZone z n s =
    { st := sealTest (fun y => decide (y ∉ s.ring.records)) (updRecords (recordAtFlush z n s) s)
      code := .done
      data := [.num 1 (s.ring.records.filter fun r =>
          decide (r.state = .opened ∧ s.ring.epochEnd r.epoch ≤ n)).length,
        .num 2 ((s.ring.records.filter fun r =>
          decide (r.state = .opened ∧ s.ring.epochEnd r.epoch ≤ n)).map fun r =>
            ((List.finRange 64).filter fun k => decide (r.entries[k].status = .waiting ∧
              (station k s).clk.zone = z)).length).sum] } := by
  have give : (fun r => if flushReaches n s r = true then giveUpZone z .absentFlushed s r else r) =
      recordAtFlush z n s := funext fun r => by
    rw [flushReaches_eq, giveUpZone_eq]
    exact if_congr decide_eq_true_iff rfl rfl
  have count : waitingInZone z s = fun r => ((List.finRange 64).filter fun k =>
      decide (r.entries[k].status = .waiting ∧ (station k s).clk.zone = z)).length :=
    funext fun r => congrArg (fun f => ((List.finRange 64).filter f).length)
      (funext (waitsInZone_eq z s r))
  exact congr (congr (congrArg (fun f c g => Answer.mk (sealTest (fun y => decide (y ∉ s.ring.records))
    (updRecords f s)) .done [.num 1 (s.ring.records.filter g).length,
      .num 2 ((s.ring.records.filter g).map c).sum]) give) count) (funext (flushReaches_eq n s))

theorem zoneFlushedOwner_no_zone (h : zoneOf b = none) :
    zoneFlushedOwner b t s = refuse .badRequest s [.num 1 0] := by
  rw [zoneFlushedOwner, h]

theorem zoneFlushedOwner_of_zone (hz : zoneOf b = some z) : zoneFlushedOwner b t s =
      if s.ring.state = .stopped then refuse .ringStopped s
      else if (zoneEntry z s).mode ≠ .signalled then refuse .wrongState s
      else flushZone z t.toNat s := by
  rw [zoneFlushedOwner, hz]

theorem zoneFlushedOwner_active (hz : zoneOf b = some z) (active : s.ring.state = .active) :
    zoneFlushedOwner b t s = if (zoneEntry z s).mode ≠ .signalled then refuse .wrongState s
      else flushZone z t.toNat s :=
  (zoneFlushedOwner_of_zone hz).trans (if_neg (active ▸ RingState.noConfusion))

variable {u : State} {p : PortId} {tag : Byte} {rest : List Queued} {c : Code}
  {d : List Machine.Field}

theorem exec_zoneFlushedGrant_of_owner (w : Wins p { tag := tag, req := .zoneFlushed b t } rest s)
    (ho : zoneFlushedOwner b t (grantsHead p none s) = { st := u, code := c, data := d }) :
    exec .zoneFlushedGrant s = .next (tryQuiesceGrant (finishSeals (granted p tag 3 c d u))) :=
  congrArg (fun u => Host.Outcome.next (tryQuiesceGrant (finishSeals u)))
    (grantHead_of_owner (a := (b, t)) w rfl ho)

theorem exec_zoneFlushedGrant_refused (w : Wins p { tag := tag, req := .zoneFlushed b t } rest s)
    (clear : s.sealMade = false) (ho : zoneFlushedOwner b t (grantsHead p none s) =
      { st := grantsHead p none s, code := c, data := d }) :
    exec .zoneFlushedGrant s =
      .next (tryQuiesceGrant (granted p tag 3 c d (grantsHead p none s))) :=
  (exec_zoneFlushedGrant_of_owner w ho).trans
    (congrArg (fun u => Host.Outcome.next (tryQuiesceGrant u)) (finishSeals_of_clear clear))

/-- What follows an answered grant that ends with a seal test. -/
theorem afterSeals_granted (sel : Record → Bool) : AfterSeals u (tryQuiesceGrant (finishSeals
    (granted p tag 3 c d (sealTest sel u)))) :=
  (((afterSeals_sealTest sel u).trans (u := granted p tag 3 c d (sealTest sel u))
    (.of_same rfl rfl rfl rfl)).trans (afterSeals_finishSeals _)).trans (afterSeals_tryQuiesceGrant _)

theorem out_granted_seals (sel : Record → Bool) : (port p (tryQuiesceGrant (finishSeals
    (granted p tag 3 c d (sealTest sel u))))).out = (port p u).out ++ [.reply tag 3 c d] :=
  (((outSame_finishSeals _).trans (outSame_tryQuiesceGrant _)) p).trans
    ((out_granted _ _ _ _ _ _).trans (congrArg (· ++ _) (outSame_sealTest sel u p)))

end Flush

end Sys2Proof.Machine

namespace Sys2Proof.GivenUp

open Sys2Proof.Machine Sys2Proof.Safety

/-- Settles O31: what the event makes of each record, and the content that the seals leave. -/
theorem expiriesAndNoticesGiveUpTheWaiting : Obligations.ExpiriesAndNoticesGiveUpTheWaiting := by
  refine ⟨fun s n z r d clear nodup hr hn opened pending => ⟨fun early => ?_, fun late => ?_⟩,
    fun s m rest clear nodup hm => ?_⟩
  · exact (execZoneDeadlineExpiry_of_pending nodup hr hn opened pending).trans
      (if_neg (Nat.not_le.mpr early))
  · have step : exec (.zoneDeadlineExpiry n z) s = _ :=
      (execZoneDeadlineExpiry_of_pending nodup hr hn opened pending).trans (if_pos late)
    have after := afterSeals_event (fun y => decide (y.epoch = n.toNat))
      (updRecords (recordAtExpiry n.toNat z d s) s)
    refine ⟨step, _, step, after.stations, after.tb, fun x hx y hy same => ?_⟩
    have content := content_of_afterSeals after
      (fun r => (recordAtExpiry_keeps n.toNat z d s r).1) nodup hx hy same
    refine ⟨content.blocks.trans (recordAtExpiry_keeps n.toNat z d s x).2.1,
      content.late.trans (recordAtExpiry_keeps n.toNat z d s x).2.2, fun other => ?_, fun own => ?_⟩
    · exact (recordAtExpiry_other other ▸ content).entries
    · rw [recordAtExpiry_own own] at content
      exact ⟨content.expired deadline_expiredRecord,
        fun k => (entry_of_entries content.entries k).trans (entry_expiredRecord k)⟩
  · have step : exec .eligibilityLossNotice s = _ := execEligibilityLossNotice_of_notice hm
    have after := afterSeals_event (fun y => decide (y ∉ s.ring.records))
      (updRecords (lostRecord m) { s with notices := rest })
    refine ⟨step, _, step, after.notices, after.stations, after.tb,
      fun x hx y hy same => ?_⟩
    have content := content_of_afterSeals after (fun r => (lostRecord_keeps m r).1) nodup hx hy same
    exact ⟨content.blocks.trans (lostRecord_keeps m x).2.1,
      content.late.trans (lostRecord_keeps m x).2.2,
      fun k => (entry_of_entries content.entries k).trans (entry_lostRecord m x k)⟩

/-- Settles O32: the records that the flush reaches, and the content that the seals leave. -/
theorem aFlushGivesUpTheZoneUpToItsTime : Obligations.AFlushGivesUpTheZoneUpToItsTime := by
  refine fun s p tag b u rest w clear nodup => ⟨fun none_ => ?_, fun z hz => ⟨fun stopped => ?_,
    fun active other => ?_, fun active signalled => ?_⟩⟩
  · exact exec_zoneFlushedGrant_refused w clear (zoneFlushedOwner_no_zone none_)
  · exact exec_zoneFlushedGrant_refused w clear ((zoneFlushedOwner_of_zone hz).trans (if_pos stopped))
  · exact exec_zoneFlushedGrant_refused w clear
      ((zoneFlushedOwner_active (s := grantsHead p none s) hz active).trans (if_pos other))
  · have step := exec_zoneFlushedGrant_of_owner w ((zoneFlushedOwner_active (s := grantsHead p none s) hz active).trans
      ((if_neg (not_not.mpr signalled)).trans (flushZone_eq z u.toNat (grantsHead p none s))))
    refine ⟨step, _, step, ?_, (afterSeals_granted _).stations, (afterSeals_granted _).tb,
      fun x hx y hy same => ?_⟩
    · exact (out_granted_seals _).trans (congrArg (· ++ _) (outSame_grantsHead p none s p))
    · have content := content_of_afterSeals (s := grantsHead p none s) (afterSeals_granted _)
        (fun r => (recordAtFlush_keeps z u.toNat s r).1) nodup hx hy same
      refine ⟨content.blocks.trans (recordAtFlush_keeps z u.toNat s x).2.1,
        content.late.trans (recordAtFlush_keeps z u.toNat s x).2.2, fun k =>
          (entry_of_entries content.entries k).trans ((entry_recordAtFlush z u.toNat s x k).trans
            (if_congr (and_congr ?_ ?_) rfl rfl))⟩
      · exact (List.mem_filter.trans ((and_iff_right hx).trans decide_eq_true_iff)).symm
      · exact (List.mem_filter.trans
          ((and_iff_right (List.mem_finRange k)).trans decide_eq_true_iff)).symm

end Sys2Proof.GivenUp
end

section
/-! PROOFS. The network reset: the ports aborted, and the effects by owner (R157). -/

namespace Sys2Proof.Machine
open Sys2Proof.Safety

theorem abort_eq (ps : PortState) : ps.abort =
    { ps with
      out := ps.out ++ ps.urgent.toList.map (fun u => .reply u.tag 10 .aborted []) ++
        ps.queue.map (fun r => .reply r.tag (reqKind r.req) .aborted [])
      reservations := ps.reservations - (ps.urgent.toList.length + ps.queue.length)
      inFlight := ps.inFlight - (ps.urgent.toList.length + ps.queue.length)
      queue := [], urgent := none, age := 0, guards := 0, overdue := false } := by
  unfold PortState.abort
  simp only [List.length_map]

theorem resetNetwork_eq {abort : PortState → PortState} (h : ∀ ps, ps.abort = abort ps)
    (q : PortId) (s : State) : resetNetwork q s = raiseAll .networkResetDone { s with
      stations := imap (fun _ st => st.networkReset (now s) s.silenceClock) s.stations
      pool := .empty
      ring := .empty
      retime := { queue := [], running := none }
      groups := imap (fun _ _ => .detached) s.groups
      ports := imap (fun p ps => if p = q then ps else abort ps) s.ports
      notices := [] } :=
  (funext h : PortState.abort = abort) ▸ rfl

theorem networkResetOwner_of_running (q : PortId) {s : State} (h : s.sup.quiesce = .running) :
    networkResetOwner q s = { st := takeTuning (resetNetwork q s), code := .done, data := [] } :=
  if_pos h

theorem exec_networkReset_of_owner {s t : State} {p : PortId} {tag : Byte} {rest : List Queued}
    {c : Code} (w : Wins p { tag := tag, req := .networkReset } rest s)
    (h : ifSupervisor p (networkResetOwner p) (grantsHead p none s) =
      { st := t, code := c, data := [] }) :
    exec .networkResetGrant s = .next (granted p tag 12 c [] t) :=
  congrArg Host.Outcome.next (grantHead_of_owner (a := ()) w rfl h)

end Sys2Proof.Machine

namespace Sys2Proof.Resets

open Sys2Proof.Machine Sys2Proof.Safety

/-- Settles O40: refused, or the effects by owner and then a committed set. -/
theorem aNetworkResetClearsByOwner : Obligations.ANetworkResetClearsByOwner := by
  intro s p tag rest w g reset
  have done (sup : isSup p s = true) (running : s.sup.quiesce = .running) :
      exec .networkResetGrant s = .next (granted p tag 12 .done [] (takeTuning reset)) :=
    exec_networkReset_of_owner w ((ifSupervisor_of_isSup (s := g) _ sup).trans
      ((networkResetOwner_of_running p (s := g) running).trans
        (congrArg (fun t => (⟨takeTuning t, .done, []⟩ : Answer)) (resetNetwork_eq abort_eq p g))))
  refine ⟨fun free => exec_networkReset_of_owner w (ifSupervisor_of_not_isSup (s := g) _ free),
    fun sup waits => exec_networkReset_of_owner w
      ((ifSupervisor_of_isSup (s := g) _ sup).trans (if_neg waits)),
    fun sup running => ⟨done sup running, fun clear => (done sup running).trans ?_⟩⟩
  exact congrArg (fun t => Host.Outcome.next (granted p tag 12 .done [] t)) (takeTuning_of_none clear)

end Sys2Proof.Resets
end

section
/-! PROOFS. The application of a shape set at its grant (R150): what its items leave as it was, and the end of the quiesce. -/

namespace Sys2Proof.Machine
open Sys2Proof.Safety

/-! ## What deliveries and shape items leave as it was -/

/-- The outbound queues, the timebase and the silence clock as they were. -/
def ClocksSame (s t : State) : Prop :=
  OutSame s t ∧ t.tb = s.tb ∧ t.silenceClock = s.silenceClock

namespace ClocksSame

variable {s t u : State}

theorem refl (s : State) : ClocksSame s s := ⟨fun _ => rfl, rfl, rfl⟩

theorem trans (a : ClocksSame s t) (b : ClocksSame t u) : ClocksSame s u :=
  ⟨a.1.trans b.1, b.2.1.trans a.2.1, b.2.2.trans a.2.2⟩

theorem of_same (ports : t.ports = s.ports) (tb : t.tb = s.tb)
    (clock : t.silenceClock = s.silenceClock) : ClocksSame s t := ⟨.of_ports ports, tb, clock⟩

theorem of_ringEvent (h : RingEvent s t) : ClocksSame s t := ⟨h.out, h.tb, h.silenceClock⟩

theorem ite {c : Prop} [Decidable c] (a : ClocksSame s t) (b : ClocksSame s u) :
    ClocksSame s (if c then t else u) := by split <;> assumption

theorem ite_fst {α : Type} {c : Prop} [Decidable c] {x y : State × α} (a : ClocksSame s x.1)
    (b : ClocksSame s y.1) : ClocksSame s (if c then x else y).1 := by split <;> assumption

end ClocksSame

theorem clocksSame_updSeq (k : Slot) (f : SeqHalf → SeqHalf) (s : State) :
    ClocksSame s (updSeq k f s) := .of_same rfl rfl rfl

theorem clocksSame_updRecords (f : Record → Record) (s : State) : ClocksSame s (updRecords f s) :=
  .of_same rfl rfl rfl

theorem clocksSame_updStation (k : Slot) (f : Station → Station) (s : State) :
    ClocksSame s (updStation k f s) := .of_same rfl rfl rfl

theorem clocksSame_fileBlock (i : Nat) (b : Block) {s t : State} (h : ClocksSame s t) :
    ClocksSame s (match fileBlock i b t with | (u, c) => (u, [(i, c)])).1 :=
  h.trans (.of_ringEvent (ringEvent_fileBlock i b t))

theorem clocksSame_deliver (i : Nat) (gap late : Bool) (s : State) :
    ClocksSame s (deliver i gap late s).1 := by
  unfold deliver
  cases block i s with
  | none => exact .refl s
  | some b =>
    exact clocksSame_fileBlock i _ (.of_same rfl rfl rfl)

theorem clocksSame_both {s : State} {o : Option Block} {e : Option SeqNo}
    {f : Block → SeqNo → State × Delivered} (h : ∀ b e, ClocksSame s (f b e).1) :
    ClocksSame s (match o, e with
      | some b, some e => f b e
      | _, _ => (s, [])).1 := by
  cases o with
  | none => exact .refl s
  | some b =>
    cases e with
    | none => exact .refl s
    | some e => exact h b e

/-- The front of a reorder list taken, where there is one with its block and an expected sequence. -/
theorem clocksSame_front {s : State} {l : List Nat} {blk : Nat → Option Block} {e : Option SeqNo}
    {f : Nat → List Nat → Block → SeqNo → State × Delivered}
    (h : ∀ i rest b e, ClocksSame s (f i rest b e).1) :
    ClocksSame s (match l with
      | [] => (s, [])
      | i :: rest =>
        match blk i, e with
        | some b, some e => f i rest b e
        | _, _ => (s, [])).1 := by
  cases l with
  | nil => exact .refl s
  | cons i rest => exact clocksSame_both (h i rest)

theorem clocksSame_drain (k : Slot) (n : Nat) (s : State) : ClocksSame s (drain k n s).1 := by
  induction n generalizing s with
  | zero => exact .refl s
  | succ n ih =>
    refine clocksSame_front fun i rest b e => .ite_fst (x := (_, _)) ?_ (.refl s)
    exact (((clocksSame_updSeq k _ s).trans (clocksSame_deliver i false false _)).trans
      (clocksSame_updSeq k _ _)).trans (ih _)

theorem clocksSame_drainAll (k : Slot) (s : State) : ClocksSame s (drainAll k s).1 :=
  (clocksSame_drain k _ s).trans (clocksSame_updSeq k _ _)

theorem clocksSame_giveUp (k : Slot) (s : State) : ClocksSame s (giveUp k s).1 :=
  clocksSame_front fun i _ _ _ =>
    (((clocksSame_updSeq k _ s).trans (clocksSame_deliver i true false _)).trans
      (clocksSame_updSeq k _ _)).trans (clocksSame_drainAll k _)

theorem clocksSame_giveUpToDepth (k : Slot) (n : Nat) (s : State) :
    ClocksSame s (giveUpToDepth k n s) := by
  induction n generalizing s with
  | zero => exact .refl s
  | succ n ih => exact .ite ((clocksSame_giveUp k s).trans (ih _)) (.refl s)

theorem clocksSame_settleDepth (k : Slot) (s : State) : ClocksSame s (settleDepth k s) :=
  .ite (.ite (.of_same rfl rfl rfl) (.refl s)) (clocksSame_giveUpToDepth k _ s)

theorem clocksSame_applyRemove (k : Slot) (s : State) : ClocksSame s (applyRemove k s) := by
  unfold applyRemove
  refine ClocksSame.trans ?_ (clocksSame_updStation k _ _)
  exact .ite (.of_same rfl rfl rfl) (.of_same rfl rfl rfl)

theorem clocksSame_applySet (k : Slot) (z : ZoneId) (depth : Nat) (a : FaultAction) (s : State) :
    ClocksSame s (applySet k z depth a s) := by
  unfold applySet
  refine ClocksSame.trans (ClocksSame.trans ?_ (clocksSame_updSeq k _ _)) (clocksSame_settleDepth k _)
  exact .ite (.of_same rfl rfl rfl) (.of_same rfl rfl rfl)

theorem clocksSame_applyItem (s : State) (item : ShapeItem) : ClocksSame s (applyItem s item) := by
  cases item with
  | addStation k code z depth action => exact clocksSame_updStation k _ s
  | removeStation k => exact clocksSame_applyRemove k s
  | setStation k z depth action => exact clocksSame_applySet k z depth action s
  | setZone z e => exact ClocksSame.trans (.of_same rfl rfl rfl) (clocksSame_updRecords _ _)

theorem clocksSame_applyItems (items : List ShapeItem) (s : State) :
    ClocksSame s (items.foldl applyItem s) := by
  induction items generalizing s with
  | nil => exact .refl s
  | cons item items ih => exact (clocksSame_applyItem s item).trans (ih _)

/-! ## The seal test that selects nothing, and the taking of a set with intake running -/

theorem sealTest_of_none {sel : Record → Bool} {s : State}
    (h : ∀ r ∈ s.ring.records, sel r = false) : sealTest sel s = s := by
  have same : updRecords (fun r => if sel r then r.afterSealTest s else r) s = s :=
    congrArg (fun l => ({ s with ring := { s.ring with records := l } } : State))
      ((List.map_congr_left fun r hr => if_neg (by rw [h r hr]; exact Bool.false_ne_true)).trans
        (List.map_id _))
  unfold sealTest
  rw [if_neg, same]
  rw [List.any_eq_true]
  exact fun ⟨r, hr, sealed⟩ => absurd ((h r hr).symm.trans (Bool.and_eq_true_iff.mp sealed).1)
    Bool.false_ne_true

/-- Intake running with nothing staged, and the clocks as they were. -/
def RunningAfter (s t : State) : Prop :=
  t.sup.quiesce = .running ∧ t.sup.staged = [] ∧ t.tb = s.tb ∧ t.silenceClock = s.silenceClock

theorem runningAfter_lapseIfDue {s t : State} (h : RunningAfter s t) :
    RunningAfter s (lapseIfDue t) := by
  unfold lapseIfDue
  split
  · refine ⟨congrArg (·.quiesce) (endRole_eq t.sup),
      (congrArg (·.staged) (endRole_eq t.sup)).trans ((if_pos h.1).trans h.2.1), h.2.2⟩
  · exact h

theorem runningAfter_takeTuning {s t : State} (h : RunningAfter s t) :
    RunningAfter s (takeTuning t) := by
  cases committed : t.sup.committed with
  | none => exact (takeTuning_of_none committed).symm ▸ h
  | some x =>
    rw [takeTuning_of_committed committed]
    exact runningAfter_lapseIfDue h

theorem runningAfter_finishSeals {s t : State} (h : RunningAfter s t) :
    RunningAfter s (finishSeals t) := by
  unfold finishSeals
  split
  · exact runningAfter_takeTuning h
  · exact h

/-! ## The owner of the request -/

variable {s : State} {d : Nat}

theorem applyOwner_of_not_quiesced (h : s.sup.quiesce.isQuiesced = false) :
    applyOwner s = refuse .wrongState s := by
  unfold applyOwner
  revert h
  cases s.sup.quiesce with
  | quiesced d => exact nofun
  | running => exact fun _ => rfl
  | quiescing d => exact fun _ => rfl

theorem applyOwner_of_invalid {n : Nat} {e : Config.ShapeReason} (q : s.sup.quiesce = .quiesced d)
    (h : firstInvalid 1 (occupancy s) s.sup.staged = some (n, e)) :
    applyOwner s = { st := updSup (fun v => { v with staged := [] }) s, code := .shapeInvalid
                     data := [.num 1 n, .num 1 (Config.shapeReason e).toNat] } := by
  rw [applyOwner, q, h]

theorem applyOwner_of_valid (q : s.sup.quiesce = .quiesced d)
    (h : firstInvalid 1 (occupancy s) s.sup.staged = none) :
    applyOwner s = { st := applyShape s.sup.staged s, code := .done
                     data := [.num 1 s.sup.staged.length] } := by
  rw [applyOwner, q, h]

theorem applyShape_nil (s : State) : applyShape [] s = updSup (·.endQuiesce) s :=
  congrArg (updSup (·.endQuiesce)) (sealTest_of_none fun _ hr => decide_eq_false (not_not.mpr hr))

theorem applyOwner_of_empty (q : s.sup.quiesce = .quiesced d) (h : s.sup.staged = []) :
    applyOwner s = { st := updSup (·.endQuiesce) s, code := .done, data := [.num 1 0] } := by
  rw [applyOwner_of_valid q (h ▸ rfl), h, applyShape_nil, List.length_nil]

section Grant

variable {t : State} {p : PortId} {tag : Byte} {rest : List Queued} {c : Code}
  {f : List Machine.Field}
  (w : Wins p { tag := tag, req := .quiesceEndApply } rest s)
include w

theorem exec_applyGrant_of_owner (h : ifSupervisor p applyOwner (grantsHead p none s) =
      { st := t, code := c, data := f }) :
    exec .quiesceEndApplyGrant s = .next (finishSeals (granted p tag 13 c f t)) :=
  congrArg (fun u => Host.Outcome.next (finishSeals u)) (grantHead_of_owner (a := ()) w rfl h)

/-- The grant whose answer makes no seal. -/
theorem exec_applyGrant_of_clear (h : ifSupervisor p applyOwner (grantsHead p none s) =
      { st := t, code := c, data := f }) (clear : t.sealMade = false) :
    exec .quiesceEndApplyGrant s = .next (granted p tag 13 c f t) :=
  (exec_applyGrant_of_owner w h).trans
    (congrArg Host.Outcome.next (finishSeals_of_clear (s := granted p tag 13 c f t) clear))

end Grant

/-- What an applied set keeps, and the end of the quiesce. -/
theorem applied_keeps {u g : State} {p : PortId} {tag : Byte} {f : List Machine.Field}
    (h : ClocksSame g u) (before : List Record) :
    let t := finishSeals (granted p tag 13 .done f
      (updSup (·.endQuiesce) (sealChanged before u)))
    (port p t).out = (port p g).out ++ [.reply tag 13 .done f] ∧ RunningAfter g t := by
  have kept : ClocksSame g (sealChanged before u) :=
    h.trans (.of_ringEvent (ringEvent_sealTest _ u))
  exact ⟨(outSame_finishSeals _ p).trans ((out_granted ..).trans
      (congrArg (· ++ [OutFrame.reply tag 13 .done f]) (kept.1 p))),
    runningAfter_finishSeals ⟨rfl, rfl, kept.2⟩⟩

end Sys2Proof.Machine

namespace Sys2Proof.Shapes

open Sys2Proof.Machine Sys2Proof.Safety

/-- Settles O41: refused, or validated and applied; then the validation itself. -/
theorem anApplyIsValidatedThenEndsTheQuiesce :
    Obligations.AnApplyIsValidatedThenEndsTheQuiesce := by
  refine ⟨fun s p tag rest w clear => ?_, occupancy_get, fun o l n e => ?_,
    fun o l => firstInvalid_none_iff l 1 o⟩
  · intro g
    refine ⟨fun free => exec_applyGrant_of_clear w (ifSupervisor_of_not_isSup (s := g) _ free) clear,
      fun sup no => exec_applyGrant_of_clear w ((ifSupervisor_of_isSup (s := g) _ sup).trans
        (applyOwner_of_not_quiesced (s := g) no)) clear,
      fun d sup q => ⟨fun n e invalid => exec_applyGrant_of_clear w
        ((ifSupervisor_of_isSup (s := g) _ sup).trans (applyOwner_of_invalid (s := g) q invalid)) clear,
        fun valid => ?_, fun empty => exec_applyGrant_of_clear w
          ((ifSupervisor_of_isSup (s := g) _ sup).trans (applyOwner_of_empty (s := g) q empty)) clear⟩⟩
    have run := exec_applyGrant_of_owner w
      ((ifSupervisor_of_isSup (s := g) _ sup).trans (applyOwner_of_valid (s := g) q valid))
    obtain ⟨out, running, staged, clocks⟩ := applied_keeps (p := p) (tag := tag)
      (f := [.num 1 s.sup.staged.length]) (clocksSame_applyItems s.sup.staged g) s.ring.records
    exact ⟨run, _, run, out.trans (congrArg (· ++ _) (outSame_grantsHead p none s p)), running,
      staged, clocks⟩
  · exact firstInvalid_some_iff l 1 o n e

end Sys2Proof.Shapes
end

section
/-! PROOFS. What each item of an applied shape set does, and which are invalid (R150 to R152). -/

namespace Sys2Proof.Machine
open Sys2Proof.Safety

theorem updRecords_id {f : Record → Record} (s : State) (h : ∀ r, f r = r) : updRecords f s = s :=
  congrArg (fun l => ({ s with ring := { s.ring with records := l } } : State))
    ((List.map_congr_left fun r _ => h r).trans (List.map_id _))

theorem updRecords_of_ite (c : Prop) [Decidable c] (f : Record → Record) (s : State) :
    (if c then updRecords f s else s) = updRecords (fun r => if c then f r else r) s := by
  by_cases h : c
  · simp only [if_pos h]
  · simp only [if_neg h]
    exact (updRecords_id s fun _ => rfl).symm

theorem updRecords_of_ite_not (c : Prop) [Decidable c] (f : Record → Record) (s : State) :
    (if c then s else updRecords f s) = updRecords (fun r => if c then r else f r) s := by
  by_cases h : c
  · simp only [if_pos h]
    exact (updRecords_id s fun _ => rfl).symm
  · simp only [if_neg h]

section Items

variable (k : Slot) (s : State)

theorem giveUp_record (x : Status) (r : Record) :
    { r with entries := put r.entries k (r.entries[k].giveUp x) } =
      if r.entries[k].status = .waiting then
        { r with entries := put r.entries k { r.entries[k] with status := x } }
      else r := by
  unfold Entry.giveUp
  split
  · rfl
  · rw [put_self]

/-- A removal in one record (R151). -/
theorem removedRecord_eq (c : ClockState) (r : Record) :
    (if c.canBeEligible = true then
      if r.isOpen = true then { r with entries := put r.entries k (r.entries[k].giveUp .absentRemoved) }
      else r
    else r) =
      if (c = .locked ∨ c = .tracking) ∧ r.state = .opened ∧ r.entries[k].status = .waiting then
        { r with entries := put r.entries k { r.entries[k] with status := .absentRemoved } }
      else r :=
  (if_congr (canBeEligible_iff c) (if_congr beq_iff_eq (giveUp_record k _ r) rfl) rfl).trans
    (((ite_and ..).trans (if_congr Iff.rfl (ite_and ..) rfl)).symm)

theorem applyRemove_eq : applyRemove k s = { s with
    stations := put s.stations k { station k s with
      clk := ClockHalf.vacant, sq := SeqHalf.vacant, lastReport := none }
    pool := (station k s).sq.held.foldl Pool.free s.pool
    ring := { s.ring with records := s.ring.records.map fun r =>
      if ((station k s).clk.state = .locked ∨ (station k s).clk.state = .tracking) ∧
          r.state = .opened ∧ r.entries[k].status = .waiting then
        { r with entries := put r.entries k { r.entries[k] with status := .absentRemoved } }
      else r } } :=
  congrArg (updStation k fun st => { st with clk := .vacant, sq := .vacant, lastReport := none })
    ((updRecords_of_ite _ _ _).trans
      (congrArg (fun f => updRecords f (freeBlocks (station k s).sq.held s))
        (funext (removedRecord_eq k (station k s).clk.state))))

/-! ## The reorder depth (R77, R75) -/

theorem giveUpToDepth_of_fits (h : (station k s).sq.held.length ≤ (station k s).sq.depth) :
    ∀ n : Nat, giveUpToDepth k n s = s
  | 0 => rfl
  | _ + 1 => if_neg (Nat.not_lt.mpr h)

theorem settleDepth_of_fits (h : (station k s).sq.held.length ≤ (station k s).sq.depth) :
    settleDepth k s = s :=
  (if_congr Iff.rfl (if_neg (Nat.not_lt.mpr h)) (giveUpToDepth_of_fits k s h _)).trans (ite_self s)

theorem settleDepth_of_open (h : ¬(station k s).clk.state.frozen = true) :
    settleDepth k s = giveUpToDepth k (station k s).sq.held.length s := if_neg h

theorem settleDepth_of_frozen {q : SeqHalf} (h : (station k s).clk.state.frozen = true)
    (hq : (station k s).sq = q) (long : q.depth < q.held.length) : settleDepth k s = { s with
      stations := put s.stations k { station k s with sq := { (station k s).sq with
        held := q.held.take q.depth
        heldSince := if q.depth = 0 then none else q.heldSince
        discarded := min (q.discarded + (q.held.length - q.depth)) 65535 } }
      pool := (q.held.drop q.depth).reverse.foldl Pool.free s.pool } := by
  have empty : (q.held.take q.depth).isEmpty = true ↔ q.depth = 0 :=
    List.isEmpty_iff.trans (List.take_eq_nil_iff.trans
      (or_iff_left fun nil => absurd (nil ▸ long) (Nat.not_lt_zero _)))
  subst hq
  exact (if_pos h).trans ((if_pos long).trans (congrArg₂ (fun since n => ({ s with
    stations := put s.stations k { station k s with sq := { (station k s).sq with
      held := (station k s).sq.held.take (station k s).sq.depth
      heldSince := since
      discarded := min ((station k s).sq.discarded + n) 65535 } }
    pool := ((station k s).sq.held.drop (station k s).sq.depth).reverse.foldl Pool.free s.pool } : State))
    (if_congr empty rfl rfl) (List.length_reverse.trans List.length_drop)))

/-! ## SET_STATION and SET_ZONE -/

theorem put_put_get {α : Type} {n : Nat} (v : Vector α n) (i : Fin n) (x : α) (f : α → α) :
    put (put v i x) i (f (put v i x)[i]) = put v i (f x) := by
  rw [put_get_self, put_put]


variable (z : ZoneId) (depth : Nat) (a : FaultAction)

/-- The state that a SET_STATION leaves before its list is brought to the new depth (R34, R151). -/
noncomputable def setStation : State := { s with
  stations := put s.stations k { station k s with
    clk := { (station k s).clk with zone := z, action := a }
    sq := { (station k s).sq with depth := depth } }
  ring := { s.ring with records := s.ring.records.map (fun r =>
    if (station k s).clk.zone = z then r
      else movedRecord (updClk k (fun c => { c with zone := z, action := a }) s) k z r) } }

theorem station_setStation : station k (setStation k s z depth a) = { station k s with
    clk := { (station k s).clk with zone := z, action := a }
    sq := { (station k s).sq with depth := depth } } := put_get_self ..

theorem applySet_eq : applySet k z depth a s = settleDepth k (setStation k s z depth a) := by
  have moved : (if (station k s).clk.zone = z then
      updClk k (fun c => { c with zone := z, action := a }) s
      else updRecords (moveZoneRecord k z (updClk k (fun c => { c with zone := z, action := a }) s))
        (updClk k (fun c => { c with zone := z, action := a }) s)) =
      updRecords (fun r => if (station k s).clk.zone = z then r
        else movedRecord (updClk k (fun c => { c with zone := z, action := a }) s) k z r)
        (updClk k (fun c => { c with zone := z, action := a }) s) := by
    rw [updRecords_of_ite_not, funext (moveZoneRecord_eq k z _)]
  unfold applySet
  dsimp only
  rw [moved]
  refine congrArg (settleDepth k) ?_
  exact congrArg (fun v => ({ setStation k s z depth a with stations := v } : State)) (put_put_get s.stations k
    { station k s with clk := { (station k s).clk with zone := z, action := a } }
    fun st => { st with sq := { st.sq with depth := depth } })

theorem applySet_of_fits (h : (station k s).sq.held.length ≤ depth) :
    applySet k z depth a s = setStation k s z depth a :=
  (applySet_eq ..).trans (settleDepth_of_fits k _ (by rw [station_setStation]; exact h))

theorem applySet_of_frozen
    (h : (station k s).clk.state = .acquiring ∨ (station k s).clk.state = .quarantined)
    (long : depth < (station k s).sq.held.length) :
    applySet k z depth a s = { setStation k s z depth a with
      stations := put (setStation k s z depth a).stations k { station k (setStation k s z depth a) with
        sq := { (station k (setStation k s z depth a)).sq with
          held := (station k s).sq.held.take depth
          heldSince := if depth = 0 then none else (station k s).sq.heldSince
          discarded := min ((station k s).sq.discarded + ((station k s).sq.held.length - depth))
            65535 } }
      pool := ((station k s).sq.held.drop depth).reverse.foldl Pool.free s.pool } :=
  have here := station_setStation k s z depth a
  (applySet_eq ..).trans (settleDepth_of_frozen k _
    (by rw [here]; exact Bool.or_eq_true_iff.mpr (h.imp beq_iff_eq.mpr beq_iff_eq.mpr))
    (congrArg Station.sq here) long)

theorem applySet_of_open (h : (station k s).clk.state ≠ .acquiring)
    (q : (station k s).clk.state ≠ .quarantined) : applySet k z depth a s =
      giveUpToDepth k (station k s).sq.held.length (setStation k s z depth a) := by
  refine (applySet_eq ..).trans ((settleDepth_of_open k _ ?_).trans ?_)
  · rw [station_setStation]
    exact fun frozen => (Bool.or_eq_true_iff.mp frozen).elim (fun e => h (beq_iff_eq.mp e))
      fun e => q (beq_iff_eq.mp e)
  · rw [station_setStation]

end Items

/-! ## Validation (R150) -/

theorem codeUsed_iff (o : Occupancy) (n : Nat) :
    o.toList.any (fun c => c == some n) = true ↔ ∃ j : Slot, o[j] = some n := by
  rw [Vector.any_toList, Vector.any_eq_true]
  exact ⟨fun h => h.elim fun i h => h.elim fun hi e => ⟨⟨i, hi⟩, beq_iff_eq.mp e⟩,
    fun h => h.elim fun j e => ⟨j.val, j.isLt, beq_iff_eq.mpr e⟩⟩

theorem checkItem_removeStation_vacant {o : Occupancy} {k : Slot} (h : o[k] = none) :
    checkItem o (.removeStation k) = .error .slotVacant := if_neg (by rw [h]; exact Bool.false_ne_true)

theorem checkItem_setStation_vacant {o : Occupancy} {k : Slot} (z : ZoneId) (depth : Nat)
    (a : FaultAction) (h : o[k] = none) : checkItem o (.setStation k z depth a) = .error .slotVacant :=
  if_neg (by rw [h]; exact Bool.false_ne_true)

theorem checkItem_addStation_vacant {o : Occupancy} {k : Slot} (code : Nat) (z : ZoneId) (depth : Nat)
    (a : FaultAction) (h : o[k] = none) : checkItem o (.addStation k code z depth a) =
      if o.toList.any (fun c => c == some code) then .error .codeInUse
      else .ok (put o k (some code)) := if_neg (by rw [h]; exact Bool.false_ne_true)

end Sys2Proof.Machine

namespace Sys2Proof.Shapes

open Sys2Proof.Machine Sys2Proof.Safety

/-- Settles O42: each item by its equation. -/
theorem shapeItemsDoWhatTheirOwnersState : Obligations.ShapeItemsDoWhatTheirOwnersState := by
  intro s k code depth z a e st
  exact ⟨rfl, applyRemove_eq k s,
    ⟨applySet_of_fits k s z depth a, fun long =>
      ⟨fun frozen => applySet_of_frozen k s z depth a frozen long,
      applySet_of_open k s z depth a⟩⟩,
    fun n => ⟨fun fits => giveUpToDepth_of_fits k s fits n, fun long => if_pos long⟩,
    congrArg (fun f => updRecords f (updSup (fun v => { v with zones := put v.zones z e }) s))
      (funext (rezoneRecord_eq z _)),
    fun o => ⟨rfl, fun used => ⟨if_pos used, if_pos used, if_pos used⟩,
      fun free => ⟨checkItem_removeStation_vacant free, checkItem_setStation_vacant z depth a free,
        fun taken => (checkItem_addStation_vacant code z depth a free).trans
          (if_pos ((codeUsed_iff o code).mpr taken)),
        fun unused => (checkItem_addStation_vacant code z depth a free).trans
          (if_neg fun h => ((codeUsed_iff o code).mp h).elim unused)⟩⟩⟩

end Sys2Proof.Shapes
end
